-- ==== Sys2Proof/Word.lean ====
section
/-! DEFINITION. The word types of the Huffman Codec Core: what 00_scope.md R12, R17 and R20 treat as bits. -/

namespace Sys2Proof

/-- A register, a bus word, a command word, a FREQ count (00_scope.md R17, 20_memory.md R90). -/
abbrev Word := BitVec 32

/-- A symbol, and a byte of a buffer: unsigned, 0..255 (00_scope.md R12). -/
abbrev Byte := BitVec 8

/-- A node index of the arena; 511 is NIL (00_scope.md R17). -/
abbrev NodeIdx := BitVec 9

/-- The weight of a tree node (00_scope.md R17). -/
abbrev Weight := BitVec 40

/-- The node index that names no entry (00_scope.md R17, 10_state.md R50). -/
abbrev nilIdx : NodeIdx := 0x1FF#9

end Sys2Proof
end

