-- ==== Sys2Proof/Syntax.lean ====
section
/-! DEFINITION. The commands of the block: one constructor per row of spec/opcode_table.json (30_encoding.md R123, R124). -/

namespace Sys2Proof

/-- A command as the decoder gives it (30_encoding.md R125). A command word carries no operand (R122); an illegal word is
kept, because it is the information value of its error (45_host_interface.md R218). -/
inductive Instr where
  /-- COUNT: count symbol frequencies (40_frequency_counter.md R140). -/
  | count
  /-- BUILD: build the Huffman tree (41_tree_builder.md R150). -/
  | build
  /-- ASSIGN: generate the code map (42_code_assigner.md R170). -/
  | assign
  /-- ENCODE: encode the symbol buffer (43_encoder.md R180). -/
  | encode
  /-- DECODE: decode the bit buffer (44_decoder.md R190). -/
  | decode
  /-- ILLEGAL: any other command word (30_encoding.md R124). -/
  | illegal (word : Word)
deriving DecidableEq, Repr

end Sys2Proof
end

