-- ==== Sys2Proof/WellFormed.lean ====
section
/-! DEFINITION. Which terms of `Instr` some command word stands for. -/

namespace Sys2Proof

/-- A command word is illegal when RSVD is not 0, or OPC is 0x00 or 0x06..0xFF (30_encoding.md R124). -/
def illegalWord (c : Word) : Bool :=
  c.extractLsb' 8 24 != 0#24 || c.extractLsb' 0 8 == 0#8 || 6#8 ≤ c.extractLsb' 0 8

/-- A command is well-formed when a command word decodes to it: the one constructor with data carries an illegal word. -/
def Instr.wf : Instr → Bool
  | .count => true
  | .build => true
  | .assign => true
  | .encode => true
  | .decode => true
  | .illegal c => illegalWord c

end Sys2Proof
end

