-- ==== Sys2Proof/Decode.lean ====
section
/-! DEFINITION. The decoder of command words, total on every word (30_encoding.md R120, R121, R125), and after it the encoder
(R123). -/

namespace Sys2Proof

/-- Field OPC of a command word (30_encoding.md R120). -/
def opcField (c : Word) : Byte := c.extractLsb' 0 8

/-- Field RSVD of a command word (30_encoding.md R120). -/
def rsvdField (c : Word) : BitVec 24 := c.extractLsb' 8 24

/-- The legal opcodes (30_encoding.md R123). -/
def decodeOpc (opc : Byte) : Option Instr :=
  if opc = 0x01#8 then some .count
  else if opc = 0x02#8 then some .build
  else if opc = 0x03#8 then some .assign
  else if opc = 0x04#8 then some .encode
  else if opc = 0x05#8 then some .decode
  else none

/-- Decoding is total on every 32-bit word (30_encoding.md R125): a word that is no command is rejected by the name
`illegal`, with the word. -/
def decode (c : Word) : Instr :=
  if rsvdField c ≠ 0#24 then .illegal c else (decodeOpc (opcField c)).getD (.illegal c)

/-- The command word of a command (30_encoding.md R123). -/
def encode : Instr → Word
  | .count => 0x00000001
  | .build => 0x00000002
  | .assign => 0x00000003
  | .encode => 0x00000004
  | .decode => 0x00000005
  | .illegal c => c

/-- The command word whose low `nbits` bits are those of `w` and whose bits above are 0. -/
def tableWord (nbits w : Nat) : Word := BitVec.ofNat 32 (w % 2 ^ nbits)

/-- What the decoder reads from the bits of a row of the opcode table. A command word is exactly 32 bits, one bus word
(30_encoding.md R121), so more bits are no command. -/
def decodeTableWord (nbits w : Nat) : Option Instr :=
  if 32 < nbits then none else some (decode (tableWord nbits w))

end Sys2Proof
end

