-- ==== Sys2Proof/Config.lean ====
section
/-! DEFINITION. What an implementation of the block fixes (00_scope.md section 4), and the free values: what the spec
leaves open where the machine goes on. A free value has no body, so no proof can see what it is. -/

namespace Sys2Proof

/-- Which tied node the tree builder extracts (00_scope.md R16). -/
inductive TieOrder where
  /-- The lower node index first: the hardware's behaviour. -/
  | seq
  /-- Any tied node: the source's reference behaviour. -/
  | any
deriving DecidableEq, Repr

/-- What a command does that reads a buffer byte nothing has written since hard reset (00_scope.md R19). -/
inductive UninitRead where
  /-- The model stops with a fault; the value the spec recommends. -/
  | fault
  /-- The command gets an arbitrary byte, the same one until the byte is written. -/
  | draw
deriving DecidableEq, Repr

/-- The implementation parameters of 00_scope.md R13 to R16 and R19. -/
structure Params where
  /-- SYM_CAP, in symbols (R13). -/
  symCap : Nat
  /-- BIT_CAP, in bits (R14). -/
  bitCap : Nat
  /-- OUT_CAP, in symbols (R15). -/
  outCap : Nat
  /-- TIE_ORDER (R16). -/
  tie : TieOrder
  /-- UNINIT_READ (R19). -/
  uninit : UninitRead
deriving DecidableEq, Repr

/-- The legal ranges of the capacities (00_scope.md R13 to R15). -/
abbrev Params.legal (p : Params) : Prop :=
  (p.symCap % 4 = 0 ∧ 4 ≤ p.symCap ∧ p.symCap ≤ 65536) ∧
  (p.bitCap % 32 = 0 ∧ 32 ≤ p.bitCap ∧ p.bitCap ≤ 524288) ∧
  (p.outCap % 4 = 0 ∧ 4 ≤ p.outCap ∧ p.outCap ≤ 65536)

/-- The spec's default of every parameter (00_scope.md R13 to R16), and for UNINIT_READ, which has none, the value it
recommends (R19). DESIGN CHOICE of the latter: notes/assumptions/1.md. -/
def Params.default : Params :=
  { symCap := 4096, bitCap := 32768, outCap := 32768, tie := .seq, uninit := .fault }

namespace Config

/-- FREE VALUE: the byte at bus offset `a` of a buffer whose contents draw number `id` left unspecified
(93_implementation_defined.md rows 6, 7, 8). Safe: nothing constrains it. -/
opaque freeByte (id a : Nat) : Byte

/-- FREE VALUE: what a host read while busy returns (45_host_interface.md R215), one draw number per read. Safe. -/
opaque freeWord (id : Nat) : Word

/-- FREE VALUE: the choice among tied nodes at the `t`-th extraction of a BUILD under TIE_ORDER = ANY
(41_tree_builder.md R152), one draw number per BUILD. Safe. -/
opaque freePick (id t : Nat) : Nat

/-- FREE VALUE: HCC_BASE, the block's base address in the host's address space (00_scope.md R18). Its width,
32 bits, is a DESIGN CHOICE (notes/assumptions/18.md). -/
opaque hccBase : Word

end Config

end Sys2Proof
end

