-- ==== Sys2Proof/Machine/State.lean ====
section
/-! DEFINITION. The state of the block (10_state.md), its reasons to stop, the host's steps as data (45_host_interface.md
R210), and the state after hard reset (10_state.md R63). -/

namespace Sys2Proof.Machine

/-- Why a step stops. -/
inductive Fault where
  /-- Raised by COUNT, ENCODE and DECODE under UNINIT_READ = FAULT when the buffer byte at bus offset `addr`, the first such of their
  operands, is one that nothing has written since hard reset (00_scope.md R19). SAFE: the hardware goes on with some byte. -/
  | uninitRead (addr : Nat)
  /-- Raised by ASSIGN when the arena below ROOT is no tree of at most 511 nodes, so that the traversal of
  42_code_assigner.md R170 does not end. SAFE: no run reaches such a state with TREE_VALID = 1 (notes/assumptions/11.md). -/
  | assignDiverges
deriving DecidableEq, Repr

/-- What the model does not give a meaning. -/
inductive Refusal where
  /-- Raised by exec for an instruction with no meaning yet; no arm does. SAFE. -/
  | notModelled (mnemonic : String)
deriving DecidableEq, Repr

/-- The error kinds of commands (60_exceptions.md R231). Codes 10 to 15 are reserved and never produced, so they have no
constructor. -/
inductive ErrKind where
  | emptyInput | unknownSymbol | malformedStream | truncatedStream
  | illegalCommand | noTree | noCodes | badLength | outputOverflow
deriving DecidableEq, Repr

/-- `raise E(info)` (00_scope.md R23). -/
structure Raise where
  kind : ErrKind
  info : Word
deriving DecidableEq, Repr

/-- The engine state (10_state.md R58). -/
inductive Engine where
  | idle
  /-- The command word being run. -/
  | busy (c : Word)
deriving DecidableEq, Repr

/-- A NODE entry in one of its three forms (10_state.md R51). -/
inductive Node where
  | empty
  | leaf (sym : Byte) (w : Weight)
  | internal (left right : NodeIdx) (w : Weight)
deriving DecidableEq, Repr

/-- A CODE entry (10_state.md R53): bit `j` of `bits` is element `j` of the code, in emission order. -/
structure CodeEntry where
  present : Bool
  len : Byte
  bits : BitVec 256
deriving DecidableEq, Repr

/-- The CODE entry of a symbol with no code (10_state.md R53). -/
abbrev CodeEntry.none : CodeEntry := { present := false, len := 0, bits := 0 }

/-- What a buffer byte is that memory does not list: unspecified, with the number of its draw. -/
inductive Background where
  /-- Nothing has written it since hard reset (10_state.md R63): under UNINIT_READ for a command's read. -/
  | unwritten (id : Nat)
  /-- A command abandoned by soft reset may have written it (70_reset_and_hazards.md R263): any value, then stable. -/
  | drawn (id : Nat)
deriving DecidableEq, Repr

/-- Buffer storage: bytes at their bus offsets, in canonical form: addresses strictly rising. An unlisted byte has no stored
value, so every listed one differs from it. -/
abbrev Memory := List Host.Cell

/-- The canonical form of memory. -/
abbrev Memory.wf (m : Memory) : Prop := m.Pairwise (fun a b => a.1 < b.1)

/-- One step of the host or the environment (45_host_interface.md R210), as data. -/
inductive Event where
  /-- `HostRead(a)`: one 32-bit read at offset `a`. -/
  | hostRead (a : Word)
  /-- `HostWrite(a, v)`: one 32-bit write. -/
  | hostWrite (a v : Word)
  /-- The WAIT loop of 30_encoding.md R128: reads of STATUS up to the first that returns BUSY = 0. -/
  | wait
  /-- `Complete`: the running command finishes now. -/
  | complete
  /-- `HardReset`. -/
  | hardReset
deriving DecidableEq, Repr

/-- The host-visible registers (10_state.md R32). -/
inductive Reg where
  | id | ctrl | status | cmd | errInfo | inLen | bitLen | outLen | nleaf | nnode | root | capSym | capBit | capOut
deriving DecidableEq, Repr

/-- What a bus offset selects (20_memory.md R81). -/
inductive Target where
  | reg (r : Reg)
  /-- FREQ[s] (R83). -/
  | freq (s : Byte)
  /-- Word `word` of the NODE slot `n` (R84). -/
  | node (n : NodeIdx) (word : Nat)
  /-- Word `word` of the CODE entry of symbol `s` (R85). -/
  | code (s : Byte) (word : Nat)
  /-- SYM word `w` (R86). -/
  | sym (w : Nat)
  /-- BIT word `w` (R87). -/
  | bit (w : Nat)
  /-- OUT word `w` (R88). -/
  | out (w : Nat)
  /-- Reserved: RAZ/WI (R89). -/
  | reserved
deriving DecidableEq, Repr

/-- The state of the block, and after it the model's own fields (INVENTORY.md, "State"). -/
structure State where
  /-- The implementation parameters (00_scope.md section 4); no step changes them. -/
  params : Params
  engine : Engine
  /-- CTRL.IE (10_state.md R34). -/
  ie : Bool
  /-- STATUS.DONE, WDROP, TREE_VALID, CODES_VALID (10_state.md R35). -/
  done : Bool
  wdrop : Bool
  treeValid : Bool
  codesValid : Bool
  /-- STATUS.ERR_CODE, `none` for 0 (10_state.md R35, 60_exceptions.md R231). -/
  err : Option ErrKind
  /-- LAST_CMD, ERR_INFO, IN_LEN, BIT_LEN, OUT_LEN, NLEAF, NNODE, ROOT (10_state.md R36 to R44). -/
  lastCmd : Word
  errInfo : Word
  inLen : Word
  bitLen : Word
  outLen : Word
  nleaf : Word
  nnode : Word
  root : NodeIdx
  /-- The FREQ table (10_state.md R48). -/
  freq : Vector Word 256
  /-- The NODE arena (10_state.md R50). -/
  arena : Vector Node 511
  /-- The CODE table (10_state.md R53). -/
  codes : Vector CodeEntry 256
  /-- SYM_BUF, BIT_BUF and OUT_BUF (10_state.md R55 to R57), at their bus offsets (20_memory.md R81). -/
  mem : Memory
  symBg : Background
  bitBg : Background
  outBg : Background
  /-- The model's own: the host steps to come, first to last. -/
  inputs : List Event
  /-- The model's own: the value the port returned for the last host read. -/
  rdata : Option Word
  /-- The model's own: how many draws have been taken. -/
  draws : Nat
deriving DecidableEq, Repr

/-- The state right after the first hard reset (10_state.md R63), with default parameters, no host step to come and draw 0 taken
for the contents of the three buffers. -/
def State.reset : State :=
  { params := Params.default
    engine := .idle
    ie := false
    done := false
    wdrop := false
    treeValid := false
    codesValid := false
    err := none
    lastCmd := 0
    errInfo := 0
    inLen := 0
    bitLen := 0
    outLen := 0
    nleaf := 0
    nnode := 0
    root := nilIdx
    freq := Vector.replicate 256 0
    arena := Vector.replicate 511 .empty
    codes := Vector.replicate 256 CodeEntry.none
    mem := []
    symBg := .unwritten 0
    bitBg := .unwritten 0
    outBg := .unwritten 0
    inputs := []
    rdata := none
    draws := 1 }

end Sys2Proof.Machine
end

