-- ==== Sys2Proof/Machine/Ops.lean ====
section
/-! DEFINITION. The shared operations: bits and bytes of words, buffer memory, issuing a command (45_host_interface.md R213) and
completing one, with or without an error (R216, 60_exceptions.md R234). The block has no traps: taking an exception is
completing with an error, and there is no return from one (60_exceptions.md R230, R237). -/

namespace Sys2Proof.Machine

/-! Bits and bytes of words (00_scope.md R20). -/

/-- The number whose bit `i`, for `i < n`, is `f i`. -/
def natOfBits : Nat → (Nat → Bool) → Nat
  | 0, _ => 0
  | n + 1, f => natOfBits n f + (if f n then 2 ^ n else 0)

/-- The `n`-bit word whose bit `i` is `f i`. -/
def bitsOfFn (n : Nat) (f : Nat → Bool) : BitVec n := BitVec.ofNat n (natOfBits n f)

/-- The word that holds bits `p[0]` to `p[31]` most significant bit first, 0 past the end of `p` (20_memory.md R87). -/
def wordOfBits (p : List Bool) : Word := bitsOfFn 32 (fun j => p.getD (31 - j) false)

/-- `n` words of a bit sequence packed most significant bit first (20_memory.md R87). -/
def packWords : Nat → List Bool → List Word
  | 0, _ => []
  | n + 1, p => wordOfBits (p.take 32) :: packWords n (p.drop 32)

/-- The four bytes of a word, least significant first: byte `j` is bits 8j+7..8j (20_memory.md R86). -/
def bytesOfWord (v : Word) : List Byte :=
  [v.extractLsb' 0 8, v.extractLsb' 8 8, v.extractLsb' 16 8, v.extractLsb' 24 8]

/-- The word with byte `b j` in bits 8j+7..8j (20_memory.md R86, R88). -/
def wordOfBytes (b : Nat → Byte) : Word := b 3 ++ b 2 ++ b 1 ++ b 0

/-! Buffer memory. -/

/-- The stored byte at a bus offset, `none` where nothing is stored. -/
def memRead : Memory → Nat → Option Byte
  | [], _ => none
  | (a, b) :: m, x => if a = x then some b else memRead m x

/-- Bytes at successive offsets from `base`. -/
def cellsFrom : Nat → List Byte → Memory
  | _, [] => []
  | base, b :: bs => (base, b) :: cellsFrom (base + 1) bs

/-- Memory without the `n` bytes from offset `base`. -/
def memErase (m : Memory) (base n : Nat) : Memory := m.filter (fun c => c.1 < base || base + n ≤ c.1)

/-- Memory with `bs` stored from offset `base`. -/
def memWrite (m : Memory) (base : Nat) (bs : List Byte) : Memory :=
  if bs = [] then m
  else m.filter (fun c => c.1 < base) ++ cellsFrom base bs ++ m.filter (fun c => base + bs.length ≤ c.1)

/-! Single updates. -/

/-- CTRL.IE <- b. -/
def setIe (b : Bool) (s : State) : State := { s with ie := b }

/-- IN_LEN <- v. -/
def setInLen (v : Word) (s : State) : State := { s with inLen := v }

/-- BIT_LEN <- v. -/
def setBitLen (v : Word) (s : State) : State := { s with bitLen := v }

/-- FREQ <- a table. -/
def setFreq (freq : Vector Word 256) (s : State) : State := { s with freq := freq }

/-- CODE <- a table, and CODES_VALID <- 1. -/
def setCodes (codes : Vector CodeEntry 256) (s : State) : State := { s with codes := codes, codesValid := true }

/-- The host steps to come. -/
def setInputs (q : List Event) (s : State) : State := { s with inputs := q }

/-! Issue and completion. -/

/-- Command issue (45_host_interface.md R213): for every word, legal or not. -/
def issue (c : Word) (s : State) : State :=
  { s with lastCmd := c, done := false, err := none, errInfo := 0, engine := .busy c }

/-- Completion (45_host_interface.md R216; with an error, 60_exceptions.md R234): the engine is idle, DONE is set, ERR_CODE and
ERR_INFO report the outcome. -/
def complete (r : Option Raise) (s : State) : State :=
  { s with engine := .idle, done := true, err := r.map Raise.kind, errInfo := (r.map Raise.info).getD 0 }

/-- A command that ends normally: outcome success, info 0 (45_host_interface.md R217). -/
def succeed (s : State) : Host.Outcome State Fault Refusal := .next (complete none s)

/-- A command that ends at `raise kind(info)` (60_exceptions.md R234). -/
def raise (kind : ErrKind) (info : Word) (s : State) : Host.Outcome State Fault Refusal :=
  .next (complete (some { kind := kind, info := info }) s)

end Sys2Proof.Machine
end

