-- ==== Sys2Proof/Machine/Flags.lean ====
section
/-! DEFINITION. The flags of 10_state.md R34, R35 and R46, the STATUS and CTRL words they make up, and the interrupt output. -/

namespace Sys2Proof.Machine

/-- The code of an error kind (60_exceptions.md R231). -/
def ErrKind.code : ErrKind → BitVec 4
  | .emptyInput => 1
  | .unknownSymbol => 2
  | .malformedStream => 3
  | .truncatedStream => 4
  | .illegalCommand => 5
  | .noTree => 6
  | .noCodes => 7
  | .badLength => 8
  | .outputOverflow => 9

/-- STATUS.BUSY is 1 exactly in `Busy(c)` (10_state.md R58). -/
def State.busy (s : State) : Bool :=
  match s.engine with
  | .idle => false
  | .busy _ => true

/-- STATUS.ERR_CODE (10_state.md R35). -/
def State.errCode (s : State) : BitVec 4 := (s.err.map ErrKind.code).getD 0

/-- The STATUS word (10_state.md R35). ERR reads 1 exactly when ERR_CODE is not 0. -/
def State.statusWord (s : State) : Word :=
  (0#20) ++ s.errCode ++ (0#2) ++ BitVec.ofBool s.codesValid ++ BitVec.ofBool s.treeValid ++ BitVec.ofBool s.wdrop ++
    BitVec.ofBool (s.errCode != 0) ++ BitVec.ofBool s.done ++ BitVec.ofBool s.busy

/-- The CTRL word: IE in bit 0, SRST and the reserved bits read 0 (10_state.md R34). -/
def State.ctrlWord (s : State) : Word := (0#31) ++ BitVec.ofBool s.ie

/-- The interrupt output, a function of the state (45_host_interface.md R222, 10_state.md R62). -/
def State.irq (s : State) : Bool := s.ie && s.done

/-- A host write to STATUS: writing 1 clears DONE (bit 1) and WDROP (bit 3); other bits are ignored
(45_host_interface.md R221). -/
def writeStatus (v : Word) (s : State) : State :=
  { s with done := s.done && !v.getLsbD 1, wdrop := s.wdrop && !v.getLsbD 3 }

/-- Every event that changes FREQ clears both validity flags (10_state.md R47). -/
def invalidate (s : State) : State := { s with treeValid := false, codesValid := false }

/-- A host write dropped while busy sets WDROP and nothing else (45_host_interface.md R214). -/
def dropWrite (s : State) : State := { s with wdrop := true }

end Sys2Proof.Machine
end

