-- ==== Sys2Proof/Machine/Operands.lean ====
section
/-! DEFINITION. The implicit operands of the commands (30_encoding.md R122): entries of the three tables and bytes and bits of the
three buffers (00_scope.md R21), and where they lie (20_memory.md R81 to R88). -/

namespace Sys2Proof.Machine

/-! The map (20_memory.md R81). -/

def freqBase : Nat := 0x00400
def nodeBase : Nat := 0x02000
def codeBase : Nat := 0x04000
def symBase : Nat := 0x10000
def bitBase : Nat := 0x20000
def outBase : Nat := 0x30000

/-- Bus offset of SYM[i]: byte `4w+j` is byte `j` of SYM word `w` (20_memory.md R86). -/
def symAddr (i : Nat) : Nat := symBase + i

/-- Bus offset of OUT[i] (20_memory.md R88). -/
def outAddr (i : Nat) : Nat := outBase + i

/-- Bus offset of the byte that holds BIT(i): BIT(32w+t) sits in bit 31-t of BIT word `w` (20_memory.md R87), so in its byte
`(31-t)/8`. -/
def bitAddr (i : Nat) : Nat := bitBase + 4 * (i / 32) + (31 - i % 32) / 8

/-- The place of BIT(i) in its byte (20_memory.md R87). -/
def bitPos (i : Nat) : Nat := (31 - i % 32) % 8

/-! The three forms of a NODE entry (10_state.md R51), field by field (R50). -/

def Node.isLeaf : Node → Bool
  | .empty => false
  | .leaf _ _ => true
  | .internal _ _ _ => false

def Node.symbol : Node → Byte
  | .empty => 0
  | .leaf s _ => s
  | .internal _ _ _ => 0

def Node.leftChild : Node → NodeIdx
  | .empty => nilIdx
  | .leaf _ _ => nilIdx
  | .internal l _ _ => l

def Node.rightChild : Node → NodeIdx
  | .empty => nilIdx
  | .leaf _ _ => nilIdx
  | .internal _ r _ => r

def Node.weight : Node → Weight
  | .empty => 0
  | .leaf _ w => w
  | .internal _ _ w => w

/-- NODE[n]. Index 511 (NIL) names no entry (10_state.md R50): it reads as EMPTY inside a command, which no run does (DESIGN
CHOICE, notes/assumptions/10.md). -/
def nodeAt (arena : Vector Node 511) (n : NodeIdx) : Node := arena[n.toNat]?.getD .empty

/-- FREQ[s]. -/
def freqAt (freq : Vector Word 256) (s : Byte) : Word := freq[s.toNat]'s.isLt

/-- FREQ with FREQ[s] <- v. -/
def freqSet (freq : Vector Word 256) (s : Byte) (v : Word) : Vector Word 256 := freq.set s.toNat v s.isLt

/-- CODE[s]. -/
def codeAt (codes : Vector CodeEntry 256) (s : Byte) : CodeEntry := codes[s.toNat]'s.isLt

/-- CODE with CODE[s] <- e. -/
def codeSet (codes : Vector CodeEntry 256) (s : Byte) (e : CodeEntry) : Vector CodeEntry 256 := codes.set s.toNat e s.isLt

/-- The code of an entry: bits 0 to len-1, in emission order (10_state.md R53). -/
def CodeEntry.code (e : CodeEntry) : List Bool := (List.range e.len.toNat).map e.bits.getLsbD

/-- The entry that holds the code `p`: bit `j` is `p[j]`, and 0 past its end (10_state.md R53, 42_code_assigner.md R170). -/
def CodeEntry.ofCode (p : List Bool) : CodeEntry :=
  { present := true, len := BitVec.ofNat 8 p.length, bits := bitsOfFn 256 (fun j => p.getD j false) }

/-! Buffer bytes. -/

/-- The number of the draw an unlisted byte takes. -/
def Background.draw : Background → Nat
  | .unwritten id => id
  | .drawn id => id

/-- The byte a buffer holds at offset `a`: what is stored, or the byte's draw (93_implementation_defined.md rows 6, 8). -/
def bufByte (m : Memory) (bg : Background) (a : Nat) : Byte := (memRead m a).getD (Config.freeByte bg.draw a)

/-- The byte a command reads at offset `a`; `none` where UNINIT_READ = FAULT stops it (00_scope.md R19). -/
def cmdByte (uninit : UninitRead) (m : Memory) (bg : Background) (a : Nat) : Option Byte :=
  match memRead m a with
  | some b => some b
  | none =>
    match bg, uninit with
    | .unwritten _, .fault => none
    | _, _ => some (Config.freeByte bg.draw a)

/-- SYM[i], as a command reads it. -/
def State.symAt (s : State) (i : Nat) : Option Byte := cmdByte s.params.uninit s.mem s.symBg (symAddr i)

/-- BIT(i), as a command reads it (20_memory.md R87). -/
def State.bitAt (s : State) (i : Nat) : Option Bool :=
  (cmdByte s.params.uninit s.mem s.bitBg (bitAddr i)).map (fun b => b.getLsbD (bitPos i))

/-- The operands `f i`, `f (i+1)`, … of a command, `k` of them, or the index of the first that nothing has written: under
UNINIT_READ = FAULT a command with such an operand stops, wherever its pseudocode would end (40_frequency_counter.md R140,
43_encoder.md R180, 44_decoder.md R190; notes/assumptions/7.md). -/
def readAll {α : Type} (f : Nat → Option α) : Nat → Nat → Except Nat (List α)
  | 0, _ => .ok []
  | k + 1, i =>
    match f i with
    | none => .error i
    | some x =>
      match readAll f k (i + 1) with
      | .error j => .error j
      | .ok l => .ok (x :: l)

/-- OUT[i], the byte OUT_BUF holds. -/
def State.outAt (s : State) (i : Nat) : Byte := bufByte s.mem s.outBg (outAddr i)

end Sys2Proof.Machine
end

