-- ==== Sys2Proof/Machine/Reset.lean ====
section
/-! DEFINITION. Hard and soft reset (70_reset_and_hazards.md R260 to R264). -/

namespace Sys2Proof.Machine

/-- Every register, flag and table at its reset value (10_state.md R63); the buffers and the model's own fields unchanged. -/
def resetRegisters (s : State) : State :=
  { State.reset with
    params := s.params
    mem := s.mem
    symBg := s.symBg
    bitBg := s.bitBg
    outBg := s.outBg
    inputs := s.inputs
    rdata := s.rdata
    draws := s.draws }

/-- BIT_BUF becomes unspecified: one new draw gives every byte of it (70_reset_and_hazards.md R263). -/
def abandonBits (s : State) : State :=
  { s with mem := memErase s.mem bitBase (s.params.bitCap / 8), bitBg := .drawn s.draws, draws := s.draws + 1 }

/-- OUT_BUF becomes unspecified (70_reset_and_hazards.md R263). -/
def abandonOut (s : State) : State :=
  { s with mem := memErase s.mem outBase s.params.outCap, outBg := .drawn s.draws, draws := s.draws + 1 }

/-- The buffer that the running command could write becomes unspecified (70_reset_and_hazards.md R263). -/
def abandonCommand (s : State) : State :=
  match s.engine with
  | .idle => s
  | .busy c =>
    match decode c with
    | .encode => abandonBits s
    | .decode => abandonOut s
    | .count => s
    | .build => s
    | .assign => s
    | .illegal _ => s

/-- Soft reset (70_reset_and_hazards.md R262, R263). -/
def softReset (s : State) : State := resetRegisters (abandonCommand s)

/-- Hard reset (70_reset_and_hazards.md R260, R261): every piece of state at its reset value, and one new draw gives every byte of
the three buffers. The parameters and the model's own fields stay. -/
def hardReset (s : State) : State :=
  { resetRegisters s with
    mem := []
    symBg := .unwritten s.draws
    bitBg := .unwritten s.draws
    outBg := .unwritten s.draws
    draws := s.draws + 1 }

end Sys2Proof.Machine
end

