-- ==== Sys2Proof/Machine/Bus.lean ====
section
/-! DEFINITION. The bus slave port: the address map (20_memory.md), and host reads and writes, while idle and while busy
(45_host_interface.md R211 to R215). -/

namespace Sys2Proof.Machine

/-! The address map (20_memory.md R80, R81, R90). -/

/-- The offset of the word an access acts on: bits 17:2 of the offset, bits 1:0 cleared (20_memory.md R80, R90). -/
def wordOffset (a : Word) : Nat := a.toNat % 2 ^ 18 / 4 * 4

/-- The register at an offset of the register region (10_state.md R32); `none` is reserved (R45). -/
def regAt (off : Nat) : Option Reg :=
  match off with
  | 0x000 => some .id
  | 0x004 => some .ctrl
  | 0x008 => some .status
  | 0x00C => some .cmd
  | 0x010 => some .errInfo
  | 0x014 => some .inLen
  | 0x018 => some .bitLen
  | 0x01C => some .outLen
  | 0x020 => some .nleaf
  | 0x024 => some .nnode
  | 0x028 => some .root
  | 0x030 => some .capSym
  | 0x034 => some .capBit
  | 0x038 => some .capOut
  | _ => none

/-- What the word at an offset is (20_memory.md R81). -/
def targetOfOffset (off : Nat) : Target :=
  if off < freqBase then
    match regAt off with
    | some r => .reg r
    | none => .reserved
  else if off < 0x00800 then .freq (BitVec.ofNat 8 ((off - freqBase) / 4))
  else if off < nodeBase then .reserved
  else if off < codeBase then .node (BitVec.ofNat 9 ((off - nodeBase) / 16)) ((off - nodeBase) % 16 / 4)
  else if off < 0x08000 then .code (BitVec.ofNat 8 ((off - codeBase) / 64)) ((off - codeBase) % 64 / 4)
  else if off < symBase then .reserved
  else if off < bitBase then .sym ((off - symBase) / 4)
  else if off < outBase then .bit ((off - bitBase) / 4)
  else .out ((off - outBase) / 4)

/-- What a bus access at offset `a` selects. -/
def targetOf (a : Word) : Target := targetOfOffset (wordOffset a)

/-! Reads (45_host_interface.md R211, R215). -/

/-- The value of a register (10_state.md R33 to R44). -/
def readReg (s : State) : Reg → Word
  | .id => 0x48554646
  | .ctrl => s.ctrlWord
  | .status => s.statusWord
  | .cmd => s.lastCmd
  | .errInfo => s.errInfo
  | .inLen => s.inLen
  | .bitLen => s.bitLen
  | .outLen => s.outLen
  | .nleaf => s.nleaf
  | .nnode => s.nnode
  | .root => (0#23) ++ s.root
  | .capSym => BitVec.ofNat 32 s.params.symCap
  | .capBit => BitVec.ofNat 32 s.params.bitCap
  | .capOut => BitVec.ofNat 32 s.params.outCap

/-- The words LINK, SYMW, WLO and WHI of a NODE entry (20_memory.md R84). -/
def nodeWord (n : Node) : Nat → Word
  | 0 => BitVec.ofBool n.isLeaf ++ (0#6) ++ n.rightChild ++ (0#7) ++ n.leftChild
  | 1 => (0#24) ++ n.symbol
  | 2 => n.weight.extractLsb' 0 32
  | 3 => (0#24) ++ n.weight.extractLsb' 32 8
  | _ => 0

/-- CBITS m: bit 31-t holds code bit 32m+t (20_memory.md R85). -/
def codeBitsWord (e : CodeEntry) (m : Nat) : Word := bitsOfFn 32 (fun j => e.bits.getLsbD (32 * m + (31 - j)))

/-- The words CLEN, CBITS0 to CBITS7 and the reserved words of a CODE entry (20_memory.md R85). -/
def codeWord (e : CodeEntry) : Nat → Word
  | 0 => BitVec.ofBool e.present ++ (0#23) ++ e.len
  | m + 1 => if m < 8 then codeBitsWord e m else 0

/-- The word at offset `a` of a buffer (20_memory.md R86 to R88). -/
def bufWord (m : Memory) (bg : Background) (a : Nat) : Word := wordOfBytes (fun j => bufByte m bg (a + j))

/-- The value of a location while idle (45_host_interface.md R211). -/
def readTarget (s : State) : Target → Word
  | .reg r => readReg s r
  | .freq b => freqAt s.freq b
  | .node n word => if n = nilIdx then 0 else nodeWord (nodeAt s.arena n) word
  | .code b word => codeWord (codeAt s.codes b) word
  | .sym w => if 4 * w < s.params.symCap then bufWord s.mem s.symBg (symBase + 4 * w) else 0
  | .bit w => if 32 * w < s.params.bitCap then bufWord s.mem s.bitBg (bitBase + 4 * w) else 0
  | .out w => if 4 * w < s.params.outCap then bufWord s.mem s.outBg (outBase + 4 * w) else 0
  | .reserved => 0

/-- The locations a read returns the value of while busy (45_host_interface.md R215). -/
def readableWhileBusy : Target → Bool
  | .reg .id => true
  | .reg .ctrl => true
  | .reg .status => true
  | .reg .cmd => true
  | .reg .capSym => true
  | .reg .capBit => true
  | .reg .capOut => true
  | _ => false

/-- The port answers a read with `v`. -/
def answer (v : Word) (s : State) : State := { s with rdata := some v }

/-- A read that returns a draw (45_host_interface.md R215). -/
def answerDraw (s : State) : State := { s with rdata := some (Config.freeWord s.draws), draws := s.draws + 1 }

/-- `HostRead(a)` (45_host_interface.md R211, R215). -/
def hostRead (a : Word) (s : State) : State :=
  if s.busy && !readableWhileBusy (targetOf a) then answerDraw s else answer (readTarget s (targetOf a)) s

/-! Writes (45_host_interface.md R212, R214). -/

/-- A write to CTRL: bit 1 performs a soft reset, which also clears IE (45_host_interface.md R212, R220); else IE <- bit 0. -/
def writeCtrl (v : Word) (s : State) : State := if v.getLsbD 1 then softReset s else setIe (v.getLsbD 0) s

/-- A host write to FREQ[b] (45_host_interface.md R219). -/
def writeFreq (b : Byte) (v : Word) (s : State) : State := invalidate (setFreq (freqSet s.freq b v) s)

/-- A word stored in a buffer at offset `a`. -/
def storeWord (a : Nat) (v : Word) (s : State) : State := { s with mem := memWrite s.mem a (bytesOfWord v) }

/-- A register write while idle (45_host_interface.md R212). -/
def writeReg (v : Word) (s : State) : Reg → State
  | .ctrl => writeCtrl v s
  | .status => writeStatus v s
  | .cmd => issue v s
  | .inLen => setInLen v s
  | .bitLen => setBitLen v s
  | .id => s
  | .errInfo => s
  | .outLen => s
  | .nleaf => s
  | .nnode => s
  | .root => s
  | .capSym => s
  | .capBit => s
  | .capOut => s

/-- `HostWrite` while idle, by target (45_host_interface.md R212). -/
def writeIdle (v : Word) (s : State) : Target → State
  | .reg r => writeReg v s r
  | .freq b => writeFreq b v s
  | .sym w => if 4 * w < s.params.symCap then storeWord (symBase + 4 * w) v s else s
  | .bit w => if 32 * w < s.params.bitCap then storeWord (bitBase + 4 * w) v s else s
  | .node _ _ => s
  | .code _ _ => s
  | .out _ => s
  | .reserved => s

/-- `HostWrite` while busy (45_host_interface.md R214): only CTRL and STATUS act. -/
def writeBusy (v : Word) (s : State) : Target → State
  | .reg .ctrl => writeCtrl v s
  | .reg .status => writeStatus v s
  | _ => dropWrite s

/-- `HostWrite(a, v)` (45_host_interface.md R212, R214). -/
def hostWrite (a v : Word) (s : State) : State :=
  if s.busy then writeBusy v s (targetOf a) else writeIdle v s (targetOf a)

end Sys2Proof.Machine
end

