-- ==== Sys2Proof/Machine/CodeAssigner.lean ====
section
/-! DEFINITION. ASSIGN (42_code_assigner.md). -/

namespace Sys2Proof.Machine

/-- The code of the leaf of a single-leaf tree: "0" (42_code_assigner.md R172). -/
def singleLeafCode : List Bool := [false]

/-- The traversal (42_code_assigner.md R170): the head of the list is the top of the stack, and `fuel` bounds the pops. `none` when
the fuel does not suffice. -/
def assignLoop (arena : Vector Node 511) :
    Nat → List (NodeIdx × List Bool) → Vector CodeEntry 256 → Option (Vector CodeEntry 256)
  | _, [], codes => some codes
  | 0, _ :: _, _ => none
  | fuel + 1, (n, p) :: stack, codes =>
    if (nodeAt arena n).isLeaf then
      assignLoop arena fuel stack (codeSet codes (nodeAt arena n).symbol (CodeEntry.ofCode p))
    else
      assignLoop arena fuel
        (((nodeAt arena n).leftChild, p ++ [false]) :: ((nodeAt arena n).rightChild, p ++ [true]) :: stack) codes

/-- The CODE table ASSIGN computes from the tree below `root`. A tree has at most 511 nodes (00_scope.md R17), each popped once;
`none` where that many pops do not end the traversal. -/
def assignCodes (arena : Vector Node 511) (root : NodeIdx) : Option (Vector CodeEntry 256) :=
  if (nodeAt arena root).isLeaf then
    some (codeSet (Vector.replicate 256 CodeEntry.none) (nodeAt arena root).symbol (CodeEntry.ofCode singleLeafCode))
  else assignLoop arena 511 [(root, [])] (Vector.replicate 256 CodeEntry.none)

/-- ASSIGN: generate the code map (42_code_assigner.md R170). -/
def execAssign (s : State) : Host.Outcome State Fault Refusal :=
  if s.treeValid = false then raise .noTree 0 s
  else
    match assignCodes s.arena s.root with
    | none => .fault .assignDiverges
    | some codes => succeed (setCodes codes s)

end Sys2Proof.Machine
end

