-- ==== Sys2Proof/Machine/FrequencyCounter.lean ====
section
/-! DEFINITION. COUNT (40_frequency_counter.md). -/

namespace Sys2Proof.Machine

/-- The counting loop: FREQ[s] <- FREQ[s] + 1 for each symbol (40_frequency_counter.md R140). -/
def countLoop : List Byte → Vector Word 256 → Vector Word 256
  | [], freq => freq
  | b :: syms, freq => countLoop syms (freqSet freq b (freqAt freq b + 1))

/-- COUNT: count symbol frequencies (40_frequency_counter.md R140). -/
def execCount (s : State) : Host.Outcome State Fault Refusal :=
  if s.params.symCap < s.inLen.toNat then raise .badLength s.inLen s
  else
    match readAll s.symAt s.inLen.toNat 0 with
    | .error i => .fault (.uninitRead (symAddr i))
    | .ok syms => succeed (invalidate (setFreq (countLoop syms (Vector.replicate 256 0)) s))

end Sys2Proof.Machine
end

