-- ==== Sys2Proof/Machine/IllegalCommand.lean ====
section
/-! DEFINITION. ILLEGAL (45_host_interface.md R218). -/

namespace Sys2Proof.Machine

/-- An illegal command word completes with IllegalCommand and info = the word; nothing else changes (45_host_interface.md R218). -/
def execIllegal (c : Word) (s : State) : Host.Outcome State Fault Refusal := raise .illegalCommand c s

end Sys2Proof.Machine
end

