-- ==== Sys2Proof/Machine/StreamDecoder.lean ====
section
/-! DEFINITION. DECODE (44_decoder.md). -/

namespace Sys2Proof.Machine

/-- One move of the cursor (44_decoder.md R191, R192): at an internal node to the child the bit names, at a leaf root a bit 0 stays.
`none` is MalformedStream (R193). -/
def cursorStep (arena : Vector Node 511) (cur : NodeIdx) (b : Bool) : Option NodeIdx :=
  if (nodeAt arena cur).isLeaf then
    if b then none else some cur
  else
    let nxt := if b then (nodeAt arena cur).rightChild else (nodeAt arena cur).leftChild
    if nxt = nilIdx then none else some nxt

/-- The decoding loop over the bits from BIT(i), with the cursor, the symbols emitted and the position of the code's first bit
(44_decoder.md R190): the symbols emitted at its end, and the error that ended it. -/
def decodeLoop (arena : Vector Node 511) (root : NodeIdx) (outCap : Nat) :
    List Bool → Nat → NodeIdx → List Byte → Nat → List Byte × Option Raise
  | [], i, _, out, start =>
    (out, if start = i then none else some { kind := .truncatedStream, info := BitVec.ofNat 32 start })
  | b :: bits, i, cur, out, start =>
    match cursorStep arena cur b with
    | none => (out, some { kind := .malformedStream, info := BitVec.ofNat 32 i })
    | some nxt =>
      if (nodeAt arena nxt).isLeaf = false then decodeLoop arena root outCap bits (i + 1) nxt out start
      else if out.length = outCap then (out, some { kind := .outputOverflow, info := BitVec.ofNat 32 i })
      else decodeLoop arena root outCap bits (i + 1) root (out ++ [(nodeAt arena nxt).symbol]) (i + 1)

/-- The symbols in OUT_BUF and their number in OUT_LEN (44_decoder.md R190). Bytes past the last one keep their contents (R197). -/
def storeSymbols (out : List Byte) (s : State) : State :=
  { s with outLen := BitVec.ofNat 32 out.length, mem := memWrite s.mem outBase out }

/-- DECODE: decode the bit buffer (44_decoder.md R190). It reads neither CODE nor CODES_VALID (R200). -/
def execDecode (s : State) : Host.Outcome State Fault Refusal :=
  if s.treeValid = false then raise .noTree 0 s
  else if s.params.bitCap < s.bitLen.toNat then raise .badLength s.bitLen s
  else
    match readAll s.bitAt s.bitLen.toNat 0 with
    | .error i => .fault (.uninitRead (bitAddr i))
    | .ok bits =>
      .next (complete (decodeLoop s.arena s.root s.params.outCap bits 0 s.root [] 0).2
        (storeSymbols (decodeLoop s.arena s.root s.params.outCap bits 0 s.root [] 0).1 s))

end Sys2Proof.Machine
end

