-- ==== Sys2Proof/Machine/StreamEncoder.lean ====
section
/-! DEFINITION. ENCODE (43_encoder.md). -/

namespace Sys2Proof.Machine

/-- The encoding loop over the symbols from SYM[i], with the bits `out` emitted (43_encoder.md R180): the bits emitted at its end,
and the error that ended it. -/
def encodeLoop (codes : Vector CodeEntry 256) (bitCap : Nat) : List Byte → Nat → List Bool → List Bool × Option Raise
  | [], _, out => (out, none)
  | b :: syms, i, out =>
    if (codeAt codes b).present = false then (out, some { kind := .unknownSymbol, info := BitVec.ofNat 32 i })
    else if bitCap < out.length + (codeAt codes b).len.toNat then
      (out, some { kind := .outputOverflow, info := BitVec.ofNat 32 i })
    else encodeLoop codes bitCap syms (i + 1) (out ++ (codeAt codes b).code)

/-- How many words a stream of `n` bits takes. -/
def wordsFor (n : Nat) : Nat := (n + 31) / 32

/-- A stream as the bytes of BIT_BUF: packed most significant bit first, the bits past its end up to the end of its last word 0
(20_memory.md R87, 43_encoder.md R183). -/
def streamBytes (out : List Bool) : List Byte := (packWords (wordsFor out.length) out).flatMap bytesOfWord

/-- The stream in BIT_BUF, padded, and its length in BIT_LEN (43_encoder.md R180, finish). Words past the last one keep their
contents. -/
def storeStream (out : List Bool) (s : State) : State :=
  { s with bitLen := BitVec.ofNat 32 out.length, mem := memWrite s.mem bitBase (streamBytes out) }

/-- ENCODE: encode the symbol buffer (43_encoder.md R180). -/
def execEncode (s : State) : Host.Outcome State Fault Refusal :=
  if s.codesValid = false then raise .noCodes 0 s
  else if s.params.symCap < s.inLen.toNat then raise .badLength s.inLen s
  else
    match readAll s.symAt s.inLen.toNat 0 with
    | .error i => .fault (.uninitRead (symAddr i))
    | .ok syms =>
      .next (complete (encodeLoop s.codes s.params.bitCap syms 0 []).2
        (storeStream (encodeLoop s.codes s.params.bitCap syms 0 []).1 s))

end Sys2Proof.Machine
end

