-- ==== Sys2Proof/Machine/TreeBuilder.lean ====
section
/-! DEFINITION. BUILD (41_tree_builder.md). -/

namespace Sys2Proof.Machine

/-- An element of the priority queue: a node index with its weight (10_state.md R59). -/
structure QEntry where
  idx : Nat
  w : Weight
deriving DecidableEq, Repr

/-- The lexicographic order on (weight, index) (41_tree_builder.md R152, TIE_ORDER = SEQ). -/
def QEntry.before (a b : QEntry) : Bool := a.w < b.w || (a.w == b.w && a.idx < b.idx)

/-- argmin of (weight, index) over `m` and a list. -/
def firstOf : QEntry → List QEntry → QEntry
  | m, [] => m
  | m, e :: q => firstOf (if e.before m then e else m) q

/-- The least weight of `w` and a list's weights. -/
def leastWeight : Weight → List QEntry → Weight
  | w, [] => w
  | w, e :: q => leastWeight (if e.w < w then e.w else w) q

/-- `extract(Q)` (41_tree_builder.md R152). Under ANY, `pick` chooses among the nodes of the least weight. `none` when Q is
empty. -/
def extract (tie : TieOrder) (pick : Nat) : List QEntry → Option QEntry
  | [] => none
  | e :: q =>
    match tie with
    | .seq => some (firstOf e q)
    | .any =>
      let tied := (e :: q).filter (fun x => x.w == leastWeight e.w q)
      tied[pick % tied.length]?

/-- Q without a node. -/
def remove (m : QEntry) (q : List QEntry) : List QEntry := q.filter (fun e => e.idx != m.idx)

/-- The symbols of the leaves, in ascending order (41_tree_builder.md R151). -/
def leafSymbols (freq : Vector Word 256) : List Byte :=
  ((List.range 256).map (BitVec.ofNat 8)).filter (fun s => freqAt freq s != 0)

/-- The leaf of a symbol; its weight is the count, zero-extended (41_tree_builder.md R154). -/
def leafOf (freq : Vector Word 256) (s : Byte) : Node := .leaf s ((freqAt freq s).setWidth 40)

/-- The queue of the leaves: node j with its weight, counting from `j`. -/
def queueFrom : Nat → List Node → List QEntry
  | _, [] => []
  | j, n :: ns => { idx := j, w := n.weight } :: queueFrom (j + 1) ns

/-- The merge loop (41_tree_builder.md R150, R153): while |Q| >= 2, the two extracted nodes become the left and the right child of
the next node, whose weight is their sum. `nodes` holds NODE[0..next-1]; `picks t` is the choice at extraction `t`. `fuel` is
at least |Q|, and every round takes one element off Q. -/
def mergeLoop (tie : TieOrder) (picks : Nat → Nat) : Nat → Nat → List QEntry → List Node → List QEntry × List Node
  | 0, _, q, nodes => (q, nodes)
  | fuel + 1, t, q, nodes =>
    match extract tie (picks t) q with
    | none => (q, nodes)
    | some m1 =>
      match extract tie (picks (t + 1)) (remove m1 q) with
      | none => (q, nodes)
      | some m2 =>
        mergeLoop tie picks fuel (t + 2) (remove m2 (remove m1 q) ++ [{ idx := nodes.length, w := m1.w + m2.w }])
          (nodes ++ [.internal (BitVec.ofNat 9 m1.idx) (BitVec.ofNat 9 m2.idx) (m1.w + m2.w)])

/-- The arena that holds `nodes` from index 0 and EMPTY above (41_tree_builder.md R150, R155). -/
def arenaOf (nodes : List Node) : Vector Node 511 :=
  ⟨(nodes.take 511 ++ List.replicate (511 - nodes.length) Node.empty).toArray, by simp; omega⟩

/-- What BUILD leaves in the tree registers and the arena. -/
structure Tree where
  arena : Vector Node 511
  nleaf : Word
  nnode : Word
  root : NodeIdx
deriving DecidableEq, Repr

/-- The tree registers and the arena when no tree exists (41_tree_builder.md R157). -/
def noTree : Tree := { arena := Vector.replicate 511 .empty, nleaf := 0, nnode := 0, root := nilIdx }

/-- The tree BUILD computes from a FREQ table; `none` is EmptyInput (41_tree_builder.md R150). The last element of Q is the
root. -/
def buildTree (tie : TieOrder) (picks : Nat → Nat) (freq : Vector Word 256) : Option Tree :=
  let leaves := (leafSymbols freq).map (leafOf freq)
  let q := queueFrom 0 leaves
  match mergeLoop tie picks q.length 0 q leaves with
  | ([], _) => none
  | (r :: _, nodes) =>
    some { arena := arenaOf nodes, nleaf := BitVec.ofNat 32 leaves.length, nnode := BitVec.ofNat 32 nodes.length,
           root := BitVec.ofNat 9 r.idx }

/-- The tree registers and the arena <- a tree. -/
def setTree (t : Tree) (s : State) : State :=
  { s with arena := t.arena, nleaf := t.nleaf, nnode := t.nnode, root := t.root }

/-- The next draw is fresh again. -/
def takeDraw (s : State) : State := { s with draws := s.draws + 1 }

/-- TREE_VALID <- 1. -/
def validateTree (s : State) : State := { s with treeValid := true }

/-- BUILD: build the Huffman tree (41_tree_builder.md R150). Under TIE_ORDER = ANY the choices are free, a fresh draw for every
BUILD. -/
def execBuild (s : State) : Host.Outcome State Fault Refusal :=
  match buildTree s.params.tie (Config.freePick s.draws) s.freq with
  | none => raise .emptyInput 0 (takeDraw (setTree noTree (invalidate s)))
  | some t => succeed (takeDraw (validateTree (setTree t (invalidate s))))

end Sys2Proof.Machine
end

