-- ==== Sys2Proof/Machine/Events.lean ====
section
/-! DEFINITION. The steps of the block (45_host_interface.md R210), in the order the model's field `inputs` gives them. -/

namespace Sys2Proof.Machine

/-- The bus offset of STATUS (30_encoding.md R129). -/
def statusOffset : Word := 0x008

/-- `Complete` (45_host_interface.md R216): the running command is decoded and executed. It is enabled only in `Busy(c)`; while
idle nothing happens (DESIGN CHOICE, notes/assumptions/3.md). -/
def completeStep (s : State) : Host.Outcome State Fault Refusal :=
  match s.engine with
  | .idle => .next s
  | .busy c => exec (decode c) s

/-- One event. While busy, a WAIT loop goes on reading until the command completes (30_encoding.md R128, 45_host_interface.md R223),
and its reads change nothing (20_memory.md R92); so the step is the completion, with the WAIT still to come. -/
def runEvent (s : State) : Event → Host.Outcome State Fault Refusal
  | .hostRead a => .next (hostRead a s)
  | .hostWrite a v => .next (hostWrite a v s)
  | .wait => if s.busy then completeStep (setInputs (.wait :: s.inputs) s) else .next (hostRead statusOffset s)
  | .complete => completeStep s
  | .hardReset => .next (hardReset s)

/-- The next event; with none left, a running command completes (45_host_interface.md R223) and an idle block waits
(70_reset_and_hazards.md R264). -/
def runNext (s : State) : Host.Outcome State Fault Refusal :=
  match s.inputs with
  | [] => completeStep s
  | e :: rest => runEvent (setInputs rest s) e

/-- The command word `c` issued, and its completion as the next event. -/
def fetchCommand (c : Word) (s : State) : State := setInputs (.complete :: s.inputs) (issue c s)

end Sys2Proof.Machine
end

