-- ==== Sys2Proof/Machine/Step.lean ====
section
/-! DEFINITION. The step of the block, and where it takes its next command from. -/

namespace Sys2Proof.Machine

/-- One step (45_host_interface.md R210): the next event, or the completion of the running command. -/
def step (s : State) : Host.Outcome State Fault Refusal := runNext s

/-- `s` with the command word of the bits `w` issued and its completion the next event, so that the very next step runs it
(notes/assumptions/14.md). The block fetches nothing (20_memory.md R99): its program is the word written to CMD. -/
def State.withFetchWord (s : State) (nbits w : Nat) : State := fetchCommand (tableWord nbits w) s

end Sys2Proof.Machine
end

