-- ==== Sys2Proof/Machine/HostProgram.lean ====
section
/-! DEFINITION. The host program notation (30_encoding.md R127 to R130): lines, symbolic offsets, and the bus transactions they
stand for. -/

namespace Sys2Proof.Machine

/-- The offset of a register (10_state.md R32, 30_encoding.md R129). -/
def Reg.offset : Reg → Word
  | .id => 0x000
  | .ctrl => 0x004
  | .status => 0x008
  | .cmd => 0x00C
  | .errInfo => 0x010
  | .inLen => 0x014
  | .bitLen => 0x018
  | .outLen => 0x01C
  | .nleaf => 0x020
  | .nnode => 0x024
  | .root => 0x028
  | .capSym => 0x030
  | .capBit => 0x034
  | .capOut => 0x038

/-- FREQ[s] (30_encoding.md R129). -/
def freqOffset (s : Byte) : Word := BitVec.ofNat 32 (freqBase + 4 * s.toNat)

/-- NODE[n] (30_encoding.md R129). -/
def nodeOffset (n : NodeIdx) : Word := BitVec.ofNat 32 (nodeBase + 16 * n.toNat)

/-- CODE[s] (30_encoding.md R129). -/
def codeOffset (s : Byte) : Word := BitVec.ofNat 32 (codeBase + 64 * s.toNat)

/-- SYM word `w` (30_encoding.md R129). -/
def symOffset (w : Nat) : Word := BitVec.ofNat 32 (symBase + 4 * w)

/-- BIT word `w` (30_encoding.md R129). -/
def bitOffset (w : Nat) : Word := BitVec.ofNat 32 (bitBase + 4 * w)

/-- OUT word `w` (30_encoding.md R129). -/
def outOffset (w : Nat) : Word := BitVec.ofNat 32 (outBase + 4 * w)

/-- The host address of an offset: HCC_BASE + offset (00_scope.md R18, 30_encoding.md R127). The spec gives HCC_BASE no width: that
a host address is 32 bits, and the sum wraps modulo 2^32, is a DESIGN CHOICE (notes/assumptions/18.md). -/
def hostAddress (off : Word) : Word := Config.hccBase + off

/-- The port offset of a host address that selects the block (20_memory.md R80). -/
def portOffset (h : Word) : Word := h - Config.hccBase

/-- A value of an RD line: the bits of `known` are those of the nibbles that are not `?` (30_encoding.md R127). -/
structure ReadValue where
  data : Word
  known : Word
deriving DecidableEq, Repr

/-- A value with no `?` (30_encoding.md R127). -/
def ReadValue.exact (v : Word) : ReadValue := { data := v, known := 0xFFFFFFFF }

/-- A line of a host program (30_encoding.md R127, R128); comments stand for nothing. -/
inductive HostLine where
  /-- `WR <off>, <val>`. -/
  | wr (off v : Word)
  /-- `RD <off> -> <val>`: a list of one value. `RD <off> -> <val> or <val>`, which 95_test_vectors.md P4 writes and the grammar of
  R127 lacks, is a list of its values, any of which is admitted (DESIGN CHOICE, notes/assumptions/21.md). -/
  | rd (off : Word) (vals : List ReadValue)
  /-- `CMD <mnemonic>`. -/
  | cmd (i : Instr)
  /-- `WAIT`. -/
  | wait
  /-- `RUN <mnemonic>`. -/
  | run (i : Instr)
  /-- `ACK`. -/
  | ack
  /-- `FILL SYM, <bytes>`. -/
  | fill (bytes : List Byte)
deriving DecidableEq, Repr

/-- A bus transaction of an encoded program: R or W, offset and data (30_encoding.md R130). The data of an R is the value that the
rules give, or the list of the values they admit (notes/assumptions/21.md). WAIT is its loop of reads of STATUS, written once. -/
inductive Transaction where
  | write (off data : Word)
  | read (off : Word) (vals : List ReadValue)
  | waitLoop
deriving DecidableEq, Repr

/-- FILL from SYM word `w`: one write per word, a last partial word with zero bytes above (30_encoding.md R128). -/
def fillFrom : Nat → List Byte → List Transaction
  | _, [] => []
  | w, [b0] => [.write (symOffset w) ((0#24) ++ b0)]
  | w, [b0, b1] => [.write (symOffset w) ((0#16) ++ b1 ++ b0)]
  | w, [b0, b1, b2] => [.write (symOffset w) ((0#8) ++ b2 ++ b1 ++ b0)]
  | w, b0 :: b1 :: b2 :: b3 :: bytes => .write (symOffset w) (b3 ++ b2 ++ b1 ++ b0) :: fillFrom (w + 1) bytes

/-- `CMD <mnemonic>` (30_encoding.md R128). -/
def issueWrite (i : Instr) : Transaction := .write Reg.cmd.offset (encode i)

/-- The bus transactions of a line (30_encoding.md R127, R128). -/
def HostLine.expand : HostLine → List Transaction
  | .wr off v => [.write off v]
  | .rd off vals => [.read off vals]
  | .cmd i => [issueWrite i]
  | .wait => [.waitLoop]
  | .run i => [issueWrite i, .waitLoop]
  | .ack => [.write Reg.status.offset 0x0000000A]
  | .fill bytes => fillFrom 0 bytes

/-- The encoding of a host program: its bus transactions in program order (30_encoding.md R130). -/
def encodeProgram (lines : List HostLine) : List Transaction := lines.flatMap HostLine.expand

/-- The step of the host that a transaction is (45_host_interface.md R210). -/
def Transaction.event : Transaction → Event
  | .write off v => .hostWrite off v
  | .read off _ => .hostRead off
  | .waitLoop => .wait

/-- The steps of the host that run a program. -/
def programEvents (lines : List HostLine) : List Event := (encodeProgram lines).map Transaction.event

/-- Whether `v` is the value given, in the bits it gives (30_encoding.md R127). -/
def ReadValue.accepts (x : ReadValue) (v : Word) : Bool := v &&& x.known == x.data &&& x.known

/-- Whether `v` is a value that a transaction admits. -/
def Transaction.accepts (t : Transaction) (v : Word) : Bool :=
  match t with
  | .read _ vals => vals.any (fun x => x.accepts v)
  | .write _ _ => true
  | .waitLoop => true

/-- Whether the values that the reads of a program returned, in program order, are the ones it gives: the n-th value is held against
the n-th R alone (30_encoding.md R127, R130; notes/assumptions/21.md). -/
def readsAccept : List Transaction → List Word → Bool
  | [], vs => vs.isEmpty
  | .read _ _ :: _, [] => false
  | .read off vals :: ts, v :: vs => (Transaction.read off vals).accepts v && readsAccept ts vs
  | .write _ _ :: ts, vs => readsAccept ts vs
  | .waitLoop :: ts, vs => readsAccept ts vs

end Sys2Proof.Machine
end

