-- ==== Sys2Proof/Safety.lean ====
section
/-! DEFINITION. The terms claims are made in: the invariant of the block, what a tree and a code are, what a command stores, and a
command run by the host. -/

namespace Sys2Proof.Machine

/-! What a command stores: bytes from an offset, a packed stream; every other byte reads as before. -/

/-- `m'` holds `bs` from offset `base`, and reads as `m` everywhere else. -/
def Wrote (m m' : Memory) (base : Nat) (bs : List Byte) : Prop :=
  (∀ i, (h : i < bs.length) → memRead m' (base + i) = some bs[i]) ∧
  ∀ a, (a < base ∨ base + bs.length ≤ a) → memRead m' a = memRead m a

/-- `m'` holds the stream `out` in BIT_BUF, with 0 bits up to the end of its last word, and reads as `m` everywhere else
(20_memory.md R87, 43_encoder.md R183). -/
def WroteStream (m m' : Memory) (out : List Bool) : Prop :=
  (∀ j, j < 32 * ((out.length + 31) / 32) →
    (memRead m' (bitAddr j)).map (fun b => b.getLsbD (bitPos j)) = some (out.getD j false)) ∧
  ∀ a, (a < bitBase ∨ bitBase + 4 * ((out.length + 31) / 32) ≤ a) → memRead m' a = memRead m a

/-! Trees. -/

/-- The node that the bits `p` lead to from node `n`: 0 to the left child, 1 to the right child of an internal node
(42_code_assigner.md R171, 44_decoder.md R191). -/
def walk (arena : Vector Node 511) : NodeIdx → List Bool → Option NodeIdx
  | n, [] => some n
  | n, b :: p =>
    match nodeAt arena n with
    | .empty => none
    | .leaf _ _ => none
    | .internal l r _ => walk arena (if b then r else l) p

/-- `p` is the code of the symbol `b` in the tree below `root`: its path (42_code_assigner.md R171), or "0" when the root is a leaf
(R172). -/
def CodeOf (arena : Vector Node 511) (root : NodeIdx) (p : List Bool) (b : Byte) : Prop :=
  if (nodeAt arena root).isLeaf then p = [false] ∧ (nodeAt arena root).symbol = b
  else ∃ n, walk arena root p = some n ∧ (nodeAt arena n).isLeaf = true ∧ (nodeAt arena n).symbol = b

/-- How many symbols below `n` have a nonzero count. -/
def rank (freq : Vector Word 256) (n : Nat) : Nat :=
  ((List.range n).filter (fun i => freqAt freq (BitVec.ofNat 8 i) != 0)).length

/-- The tree invariants of 10_state.md R52 for `k` leaves, and 41_tree_builder.md R155 and R158: the root is node 2k-2 and no
node's child, and the two children of a node are different nodes. -/
structure TreeShape (arena : Vector Node 511) (k : Nat) (root : NodeIdx) : Prop where
  /-- R52 (a). -/
  leaves : ∀ n : NodeIdx, n.toNat < k → ∃ b w, nodeAt arena n = .leaf b w
  /-- R52 (b), (d), (f). -/
  internals : ∀ n : NodeIdx, k ≤ n.toNat → n.toNat < 2 * k - 1 →
    ∃ l r, nodeAt arena n = .internal l r ((nodeAt arena l).weight + (nodeAt arena r).weight) ∧
      l.toNat < n.toNat ∧ r.toNat < n.toNat ∧ l ≠ r
  /-- R52 (c). -/
  empties : ∀ n : NodeIdx, 2 * k - 1 ≤ n.toNat → nodeAt arena n = .empty
  /-- R52 (e). -/
  oneParent : ∀ m : NodeIdx, m.toNat < 2 * k - 1 → m ≠ root →
    ∃! n : NodeIdx, ∃ l r w, nodeAt arena n = .internal l r w ∧ (l = m ∨ r = m)
  /-- R155, R158. -/
  rootLast : root.toNat = 2 * k - 2
  rootFree : ∀ n l r w, nodeAt arena n = .internal l r w → l ≠ root ∧ r ≠ root

/-- The offsets of existing buffer storage (10_state.md R55 to R57). -/
abbrev Params.stores (p : Params) (a : Nat) : Prop :=
  (symBase ≤ a ∧ a < symBase + p.symCap) ∨ (bitBase ≤ a ∧ a < bitBase + p.bitCap / 8) ∨
    (outBase ≤ a ∧ a < outBase + p.outCap)

/-- The invariant of the block. -/
structure Inv (s : State) : Prop where
  /-- The capacities are in their legal ranges (00_scope.md R13 to R15). -/
  params : s.params.legal
  /-- Memory is in canonical form, and lists bytes of the three buffers only. -/
  memWf : s.mem.wf
  memStores : ∀ c ∈ s.mem, Params.stores s.params c.1
  /-- Command acceptance clears DONE, ERR_CODE and ERR_INFO and sets LAST_CMD (45_host_interface.md R213, R215). -/
  busyFresh : ∀ c, s.engine = .busy c → s.done = false ∧ s.err = none ∧ s.lastCmd = c
  /-- ERR_INFO is 0 where there is no error (10_state.md R37). -/
  infoZero : s.err = none → s.errInfo = 0
  /-- 10_state.md R47 (a). -/
  codesNeedTree : s.codesValid = true → s.treeValid = true
  /-- 10_state.md R47 (b): the tree is what BUILD computes from FREQ, with some choice among ties. -/
  treeBuilt : s.treeValid = true → ∃ picks,
    buildTree s.params.tie picks s.freq = some { arena := s.arena, nleaf := s.nleaf, nnode := s.nnode, root := s.root }
  /-- 10_state.md R47 (c): the CODE table is what ASSIGN computes from the tree. -/
  codesAssigned : s.codesValid = true → assignCodes s.arena s.root = some s.codes

/-- The host writes the word of `i` to CMD while idle, and the command completes (45_host_interface.md R213, R216). -/
def runCommand (i : Instr) (s : State) : Host.Outcome State Fault Refusal := completeStep (hostWrite Reg.cmd.offset (encode i) s)

/-- Between two commands the host left the engine idle and wrote neither SYM_BUF, IN_LEN nor FREQ: what the commands hand on to each
other is as it was (44_decoder.md R198). -/
structure KeptFor (s u : State) : Prop where
  idle : u.engine = .idle
  params : u.params = s.params
  inLen : u.inLen = s.inLen
  syms : ∀ i, i < s.inLen.toNat → u.symAt i = s.symAt i
  freq : u.freq = s.freq
  arena : u.arena = s.arena
  root : u.root = s.root
  codes : u.codes = s.codes
  treeValid : u.treeValid = s.treeValid
  codesValid : u.codesValid = s.codesValid

end Sys2Proof.Machine
end

