-- ==== Sys2Proof/Certificates/Slice0/Obligations.lean ====
section
/-! DEFINITION. The statements for the provers. Each docstring names the rule of spec/ it formalises; where a statement rests on a
choice of the model, the docstring names its log entry; INFERENCE marks a rule that the spec itself derives from its other rules. -/

open Sys2Proof Sys2Proof.Machine

/-! Command words. -/

/-- 30_encoding.md R125: the decoder, word by word, by the numbers of the fields OPC and RSVD. -/
def Obligations.DecodingIsTotalByOpcode : Prop :=
  ∀ c : Word, decode c =
    if c.toNat / 256 ≠ 0 then .illegal c
    else if c.toNat % 256 = 0x01 then .count
    else if c.toNat % 256 = 0x02 then .build
    else if c.toNat % 256 = 0x03 then .assign
    else if c.toNat % 256 = 0x04 then .encode
    else if c.toNat % 256 = 0x05 then .decode
    else .illegal c

/-- 30_encoding.md R123, R125: decoding and encoding agree, both ways, and a decoded command is well-formed. -/
def Obligations.DecodeAndEncodeAgree : Prop :=
  (∀ i : Instr, i.wf = true → decode (encode i) = i) ∧
  (∀ c : Word, encode (decode c) = c ∧ (decode c).wf = true)

/-- 30_encoding.md R123, R124: the command words of the table, and words of each reserved kind. -/
def Obligations.CommandWordsDecode : Prop :=
  decode 0x00000001 = .count ∧ decode 0x00000002 = .build ∧ decode 0x00000003 = .assign ∧
  decode 0x00000004 = .encode ∧ decode 0x00000005 = .decode ∧
  decode 0x00000000 = .illegal 0x00000000 ∧ decode 0x00000006 = .illegal 0x00000006 ∧
  decode 0x000000FF = .illegal 0x000000FF ∧ decode 0x00000101 = .illegal 0x00000101 ∧
  decode 0xFFFFFFFF = .illegal 0xFFFFFFFF

/-! Steps, issue and completion. -/

/-- 45_host_interface.md R216, R217: a step that completes a command runs the command its word decodes to. Which step does is the
model's choice (log entries 2, 4, 14): the event `complete`, a WAIT, or a step with no event left; and after `withFetchWord` the
next step runs the word given. -/
def Obligations.StepRunsTheDecodedCommand : Prop :=
  (∀ (s : State) (c : Word), s.engine = .busy c →
    (s.inputs = [] → step s = exec (decode c) s) ∧
    (∀ q, s.inputs = .complete :: q → step s = exec (decode c) { s with inputs := q }) ∧
    (∀ q, s.inputs = .wait :: q → step s = exec (decode c) s)) ∧
  (∀ (s : State) (n w : Nat), n ≤ 32 →
    step (s.withFetchWord n w) =
      exec (decode (BitVec.ofNat 32 (w % 2 ^ n)))
        { s with lastCmd := BitVec.ofNat 32 (w % 2 ^ n), done := false, err := none, errInfo := 0,
                 engine := .busy (BitVec.ofNat 32 (w % 2 ^ n)) })

/-- 45_host_interface.md R213: command issue, for every word, legal or not. -/
def Obligations.CommandIssue : Prop :=
  ∀ (s : State) (a v : Word), s.engine = .idle → wordOffset a = 0x00C →
    hostWrite a v s = { s with lastCmd := v, done := false, err := none, errInfo := 0, engine := .busy v }

/-- 45_host_interface.md R216: what every completion does to the status, and what it leaves alone. -/
def Obligations.CompletionReportsTheOutcome : Prop :=
  ∀ (i : Instr) (s t : State), exec i s = .next t →
    t.engine = .idle ∧ t.done = true ∧ (t.err = none → t.errInfo = 0) ∧
    t.wdrop = s.wdrop ∧ t.ie = s.ie ∧ t.lastCmd = s.lastCmd

/-- 40_frequency_counter.md R140, 41_tree_builder.md R150, 42_code_assigner.md R170, 43_encoder.md R180, 44_decoder.md R190,
45_host_interface.md R218: which commands raise which errors (60_exceptions.md R232, INFERENCE); 60_exceptions.md R231: no code
above 9; and of R233 the value of ERR_INFO for each error, for MalformedStream, TruncatedStream and OutputOverflow its bound only:
the indices themselves are in EncodeStopsAtTheFirstBadSymbol, DecodeTruncatedStream, DecodeMalformedStream and
DecodeOutputOverflow. -/
def Obligations.ErrorsAndTheirInfo : Prop :=
  (∀ (i : Instr) (s t : State) (e : ErrKind), exec i s = .next t → t.err = some e →
    match i with
    | .count => e = .badLength
    | .build => e = .emptyInput
    | .assign => e = .noTree
    | .encode => e = .unknownSymbol ∨ e = .noCodes ∨ e = .badLength ∨ e = .outputOverflow
    | .decode => e = .malformedStream ∨ e = .truncatedStream ∨ e = .noTree ∨ e = .badLength ∨ e = .outputOverflow
    | .illegal _ => e = .illegalCommand) ∧
  (∀ (i : Instr) (s t : State), exec i s = .next t →
    (t.err = none ∨ t.err = some .emptyInput ∨ t.err = some .noTree ∨ t.err = some .noCodes → t.errInfo = 0) ∧
    (t.err = some .illegalCommand → i = .illegal t.errInfo) ∧
    (t.err = some .badLength → t.errInfo = if i = .decode then s.bitLen else s.inLen) ∧
    (t.err = some .unknownSymbol → t.errInfo.toNat < s.inLen.toNat ∧
      (∃ b, s.symAt t.errInfo.toNat = some b ∧ (codeAt s.codes b).present = false) ∧
      ∀ i, i < t.errInfo.toNat → ∃ b, s.symAt i = some b ∧ (codeAt s.codes b).present = true) ∧
    (t.err = some .outputOverflow →
      t.errInfo.toNat < if i = .decode then s.bitLen.toNat else s.inLen.toNat) ∧
    (t.err = some .malformedStream ∨ t.err = some .truncatedStream → t.errInfo.toNat < s.bitLen.toNat)) ∧
  ∀ s : State, s.errCode.toNat ≤ 9 ∧ (s.errCode = 0 ↔ s.err = none)

/-- 45_host_interface.md R218: an illegal command word completes with IllegalCommand and info = the word, and changes no table,
buffer, length register or validity flag. -/
def Obligations.IllegalCommandCompletes : Prop :=
  ∀ (c : Word) (s : State),
    exec (.illegal c) s =
      .next { s with engine := .idle, done := true, err := some .illegalCommand, errInfo := c }

/-- 45_host_interface.md R223, 70_reset_and_hazards.md R276: under UNINIT_READ = DRAW every issued command completes, from every
state that meets the invariant; a command other than ASSIGN, which alone reads the arena's shape, from every state. (Under FAULT the
model's stop of 00_scope.md R19 may come instead.) -/
def Obligations.EveryIssuedCommandCompletes : Prop :=
  (∀ (s : State) (c : Word), Inv s → s.params.uninit = .draw → s.engine = .busy c →
    ∃ t, completeStep s = .next t ∧ t.engine = .idle ∧ t.done = true) ∧
  ∀ (i : Instr) (s : State), s.params.uninit = .draw → i ≠ .assign → ∃ t, exec i s = .next t

/-- 00_scope.md R19, 40_frequency_counter.md R140, 43_encoder.md R180, 44_decoder.md R190: under UNINIT_READ = FAULT a command that
passes its flag and length checks stops at the first of its operands that nothing has written: COUNT and ENCODE at SYM[k], DECODE
at BIT(k), also where it would have ended with an error before it (which byte the stop names, and that the checks come first: log
entry 7). -/
def Obligations.UnwrittenBytesStop : Prop :=
  ∀ (s : State) (k id : Nat), s.params.uninit = .fault →
    (s.symBg = .unwritten id → s.inLen.toNat ≤ s.params.symCap → k < s.inLen.toNat →
      (∀ j, j < k → memRead s.mem (symAddr j) ≠ none) → memRead s.mem (symAddr k) = none →
      exec .count s = .fault (.uninitRead (symAddr k)) ∧
      (s.codesValid = true → exec .encode s = .fault (.uninitRead (symAddr k)))) ∧
    (s.bitBg = .unwritten id → s.treeValid = true → s.bitLen.toNat ≤ s.params.bitCap → k < s.bitLen.toNat →
      (∀ j, j < k → memRead s.mem (bitAddr j) ≠ none) → memRead s.mem (bitAddr k) = none →
      exec .decode s = .fault (.uninitRead (bitAddr k)))

/-! The frame of the commands. -/

/-- 30_encoding.md R122: what each command may write; everything else, every byte of memory among it, is unchanged. (BUILD also
takes a draw of the model's own, log entry 5.) -/
def Obligations.CommandsWriteOnlyTheirOperands : Prop :=
  ∀ (i : Instr) (s t : State), s.params.legal → exec i s = .next t →
    (t.params = s.params ∧ t.inLen = s.inLen ∧ t.ie = s.ie ∧ t.wdrop = s.wdrop ∧ t.lastCmd = s.lastCmd ∧
      t.symBg = s.symBg ∧ t.bitBg = s.bitBg ∧ t.outBg = s.outBg ∧ t.inputs = s.inputs ∧ t.rdata = s.rdata) ∧
    (i ≠ .count → t.freq = s.freq) ∧
    (i ≠ .build → t.arena = s.arena ∧ t.nleaf = s.nleaf ∧ t.nnode = s.nnode ∧ t.root = s.root ∧ t.draws = s.draws) ∧
    (i ≠ .assign → t.codes = s.codes) ∧
    (i ≠ .encode → t.bitLen = s.bitLen) ∧
    (i ≠ .decode → t.outLen = s.outLen) ∧
    (i ≠ .count → i ≠ .build → t.treeValid = s.treeValid) ∧
    (i ≠ .count → i ≠ .build → i ≠ .assign → t.codesValid = s.codesValid) ∧
    (∀ a, ¬(i = .encode ∧ bitBase ≤ a ∧ a < bitBase + s.params.bitCap / 8) →
      ¬(i = .decode ∧ outBase ≤ a ∧ a < outBase + s.params.outCap) → memRead t.mem a = memRead s.mem a)

/-! COUNT. -/

/-- 40_frequency_counter.md R140: COUNT on a readable input replaces FREQ by the counts of its symbols, clears both validity flags
and completes; on a length past SYM_CAP nothing but STATUS and ERR_INFO changes. (`syms i` is SYM[i].) -/
def Obligations.CountCountsTheInput : Prop :=
  (∀ (s : State) (syms : Nat → Byte), s.inLen.toNat ≤ s.params.symCap →
    (∀ i, i < s.inLen.toNat → s.symAt i = some (syms i)) →
    ∃ freq, (∀ b, freqAt freq b = BitVec.ofNat 32 (((List.range s.inLen.toNat).map syms).count b)) ∧
      exec .count s = .next { s with
        freq := freq, treeValid := false, codesValid := false, engine := .idle, done := true, err := none, errInfo := 0 }) ∧
  (∀ s : State, s.params.symCap < s.inLen.toNat →
    exec .count s = .next { s with engine := .idle, done := true, err := some .badLength, errInfo := s.inLen })

/-- 40_frequency_counter.md R142 (INFERENCE): after a successful COUNT, the counts sum to IN_LEN, as many entries are nonzero as there are
distinct symbols, and exactly the symbols of the input have a nonzero count. -/
def Obligations.CountTotals : Prop :=
  ∀ (s t : State) (syms : Nat → Byte), s.params.legal → (∀ i, i < s.inLen.toNat → s.symAt i = some (syms i)) →
    exec .count s = .next t → t.err = none →
    ((List.range 256).map (fun b => (freqAt t.freq (BitVec.ofNat 8 b)).toNat)).sum = s.inLen.toNat ∧
    rank t.freq 256 = ((List.range s.inLen.toNat).map syms).dedup.length ∧
    ∀ b, freqAt t.freq b ≠ 0 ↔ ∃ i, i < s.inLen.toNat ∧ syms i = b

/-! BUILD. -/

/-- 41_tree_builder.md R150, R151, and R155, R158, 10_state.md R52 (INFERENCE): with k ≥ 1 symbols of nonzero count, BUILD completes with a tree of
k leaves in ascending symbol order, the j-th symbol at node j with its count as weight, and with NLEAF, NNODE and ROOT; nothing
else changes. (The draw is the model's own, log entry 5.) -/
def Obligations.BuildMakesATree : Prop :=
  ∀ s : State, (∃ b, freqAt s.freq b ≠ 0) →
    ∃ (arena : Vector Node 511) (nleaf nnode : Word) (root : NodeIdx),
      exec .build s = .next { s with
        arena := arena, nleaf := nleaf, nnode := nnode, root := root, treeValid := true, codesValid := false,
        engine := .idle, done := true, err := none, errInfo := 0, draws := s.draws + 1 } ∧
      nleaf.toNat = rank s.freq 256 ∧ nnode.toNat = 2 * rank s.freq 256 - 1 ∧
      TreeShape arena (rank s.freq 256) root ∧
      ∀ b, freqAt s.freq b ≠ 0 →
        nodeAt arena (BitVec.ofNat 9 (rank s.freq b.toNat)) = .leaf b (BitVec.ofNat 40 (freqAt s.freq b).toNat)

/-- 41_tree_builder.md R157: BUILD of an empty map raises EmptyInput with info 0, the arena EMPTY, NLEAF = NNODE = 0, ROOT = NIL and
both validity flags 0. -/
def Obligations.BuildEmptyInput : Prop :=
  ∀ s : State, (∀ b, freqAt s.freq b = 0) →
    exec .build s = .next { s with
      arena := Vector.replicate 511 .empty, nleaf := 0, nnode := 0, root := 0x1FF, treeValid := false,
      codesValid := false, engine := .idle, done := true, err := some .emptyInput, errInfo := 0, draws := s.draws + 1 }

/-- 41_tree_builder.md R152: extraction succeeds on every nonempty queue and returns an element of the least weight; under SEQ of
the least index among those; under ANY each of them is some choice's. -/
def Obligations.ExtractionTakesALeastWeight : Prop :=
  ∀ (tie : TieOrder) (q : List QEntry), q ≠ [] →
    (∀ pick, ∃ m, extract tie pick q = some m ∧ m ∈ q ∧ ∀ e ∈ q, m.w ≤ e.w) ∧
    (tie = .seq → ∀ pick m, extract tie pick q = some m → ∀ e ∈ q, e.w = m.w → m.idx ≤ e.idx) ∧
    (tie = .any → ∀ m ∈ q, (∀ e ∈ q, m.w ≤ e.w) → ∃ pick, extract tie pick q = some m)

/-- 41_tree_builder.md R153, its second sentence (INFERENCE): under SEQ the two children of an internal node are in the order of (weight, index). -/
def Obligations.ChildrenAreInExtractionOrder : Prop :=
  ∀ s : State, Inv s → s.treeValid = true → s.params.tie = .seq →
    ∀ n l r w, nodeAt s.arena n = .internal l r w →
      (nodeAt s.arena l).weight < (nodeAt s.arena r).weight ∨
      ((nodeAt s.arena l).weight = (nodeAt s.arena r).weight ∧ l < r)

/-- 41_tree_builder.md R154 (INFERENCE that no sum wraps, and of the root's weight): a leaf's weight is its symbol's count, an internal weight is the exact sum of its children's, none
wraps, and the root's weight is the sum of all counts. -/
def Obligations.WeightsNeverWrap : Prop :=
  ∀ s : State, Inv s → s.treeValid = true →
    (∀ n b w, nodeAt s.arena n = .leaf b w → w.toNat = (freqAt s.freq b).toNat) ∧
    (∀ n l r w, nodeAt s.arena n = .internal l r w →
      w.toNat = (nodeAt s.arena l).weight.toNat + (nodeAt s.arena r).weight.toNat) ∧
    (nodeAt s.arena s.root).weight.toNat =
      ((List.range 256).map (fun b => (freqAt s.freq (BitVec.ofNat 8 b)).toNat)).sum

/-- 41_tree_builder.md R159 (c) (INFERENCE): under SEQ the tree depends on the FREQ table alone. -/
def Obligations.BuildDependsOnFreqAlone : Prop :=
  ∀ s1 s2 t1 t2 : State, s1.params.tie = .seq → s2.params.tie = .seq → s1.freq = s2.freq →
    exec .build s1 = .next t1 → exec .build s2 = .next t2 →
    t1.arena = t2.arena ∧ t1.nleaf = t2.nleaf ∧ t1.nnode = t2.nnode ∧ t1.root = t2.root ∧ t1.treeValid = t2.treeValid ∧
      t1.err = t2.err

/-! ASSIGN and the code map. -/

/-- 42_code_assigner.md R170, R171, R172, 10_state.md R53: on a valid tree ASSIGN completes; exactly the leaves' symbols get a code,
each its path from the root (or "0" for a leaf root), bits past `len` are 0, and every other entry is absent, len 0, bits 0; with
TREE_VALID = 0 it raises NoTree and nothing else changes. -/
def Obligations.AssignGivesEveryLeafItsPath : Prop :=
  (∀ s : State, Inv s → s.treeValid = true →
    ∃ codes : Vector CodeEntry 256,
      exec .assign s = .next { s with
        codes := codes, codesValid := true, engine := .idle, done := true, err := none, errInfo := 0 } ∧
      (∀ b p, CodeOf s.arena s.root p b ↔ ((codeAt codes b).present = true ∧ (codeAt codes b).code = p)) ∧
      (∀ b j, (codeAt codes b).len.toNat ≤ j → (codeAt codes b).bits.getLsbD j = false) ∧
      ∀ b, (codeAt codes b).present = false → codeAt codes b = CodeEntry.none) ∧
  (∀ s : State, s.treeValid = false →
    exec .assign s = .next { s with engine := .idle, done := true, err := some .noTree, errInfo := 0 })

/-- 42_code_assigner.md R174, 10_state.md R54 (c) (INFERENCE): the codes of a table ASSIGN wrote are prefix-free. -/
def Obligations.CodesArePrefixFree : Prop :=
  ∀ s t : State, Inv s → exec .assign s = .next t → t.err = none → ∀ a b : Byte, a ≠ b →
    (codeAt t.codes a).present = true → (codeAt t.codes b).present = true →
    ¬ (codeAt t.codes a).code <+: (codeAt t.codes b).code

/-- 42_code_assigner.md R175, 10_state.md R54 (a), (b) (INFERENCE): after ASSIGN exactly the symbols of nonzero count have a code, and NLEAF
counts them. -/
def Obligations.CodesCoverTheSymbols : Prop :=
  ∀ s t : State, Inv s → exec .assign s = .next t → t.err = none →
    (∀ b, (codeAt t.codes b).present = true ↔ freqAt t.freq b ≠ 0) ∧
    ((List.range 256).filter (fun b => (codeAt t.codes (BitVec.ofNat 8 b)).present)).length = t.nleaf.toNat

/-- 42_code_assigner.md R177 (INFERENCE): the Kraft sum of a table ASSIGN wrote, in units of 2^(-255): 1 for two or more leaves, 1/2 for one. -/
def Obligations.KraftEquality : Prop :=
  ∀ s t : State, Inv s → exec .assign s = .next t → t.err = none →
    (((List.range 256).map (BitVec.ofNat 8)).map (fun b =>
      if (codeAt t.codes b).present then 2 ^ (255 - (codeAt t.codes b).len.toNat) else 0)).sum =
      if 2 ≤ t.nleaf.toNat then 2 ^ 255 else 2 ^ 254

/-- 42_code_assigner.md R176 (INFERENCE; without the source's proviso about ties, which it does not need): after ASSIGN a symbol of
greater count has no longer code, under either tie order. -/
def Obligations.FrequentSymbolsHaveShortCodes : Prop :=
  ∀ s t : State, Inv s → exec .assign s = .next t → t.err = none → ∀ a b : Byte,
    freqAt t.freq b ≠ 0 → freqAt t.freq b < freqAt t.freq a → (codeAt t.codes a).len ≤ (codeAt t.codes b).len

/-! ENCODE. (`syms i` is SYM[i]; the stream of the first n symbols is the concatenation of their codes.) -/

/-- 43_encoder.md R180, R183, R184: when every symbol has a code and the stream fits, ENCODE completes: BIT_LEN is the stream's
length, BIT(0..) the stream padded with 0 to the end of its last word, and nothing else changes. -/
def Obligations.EncodeWritesTheCodes : Prop :=
  ∀ (s : State) (syms : Nat → Byte), s.codesValid = true → s.inLen.toNat ≤ s.params.symCap →
    (∀ i, i < s.inLen.toNat → s.symAt i = some (syms i) ∧ (codeAt s.codes (syms i)).present = true) →
    (((List.range s.inLen.toNat).map syms).flatMap (fun b => (codeAt s.codes b).code)).length ≤ s.params.bitCap →
    ∃ mem, WroteStream s.mem mem (((List.range s.inLen.toNat).map syms).flatMap (fun b => (codeAt s.codes b).code)) ∧
      exec .encode s = .next { s with
        bitLen := BitVec.ofNat 32
          (((List.range s.inLen.toNat).map syms).flatMap (fun b => (codeAt s.codes b).code)).length,
        mem := mem, engine := .idle, done := true, err := none, errInfo := 0 }

/-- 43_encoder.md R181, R182, R183: at the first symbol with no code, or whose code does not fit, ENCODE stops with that symbol's
index; the stream of the symbols before it is in BIT_BUF, padded, and its length in BIT_LEN. -/
def Obligations.EncodeStopsAtTheFirstBadSymbol : Prop :=
  ∀ (s : State) (syms : Nat → Byte) (k : Nat) (kind : ErrKind), s.codesValid = true → s.inLen.toNat ≤ s.params.symCap →
    k < s.inLen.toNat →
    (∀ i, i < s.inLen.toNat → s.symAt i = some (syms i)) → (∀ i, i < k → (codeAt s.codes (syms i)).present = true) →
    (((List.range k).map syms).flatMap (fun b => (codeAt s.codes b).code)).length ≤ s.params.bitCap →
    ((codeAt s.codes (syms k)).present = false ∧ kind = .unknownSymbol ∨
      (codeAt s.codes (syms k)).present = true ∧ kind = .outputOverflow ∧
        s.params.bitCap < (((List.range k).map syms).flatMap (fun b => (codeAt s.codes b).code)).length +
          (codeAt s.codes (syms k)).len.toNat) →
    ∃ mem, WroteStream s.mem mem (((List.range k).map syms).flatMap (fun b => (codeAt s.codes b).code)) ∧
      exec .encode s = .next { s with
        bitLen := BitVec.ofNat 32 (((List.range k).map syms).flatMap (fun b => (codeAt s.codes b).code)).length,
        mem := mem, engine := .idle, done := true, err := some kind, errInfo := BitVec.ofNat 32 k }

/-- 43_encoder.md R180, 44_decoder.md R190, 60_exceptions.md R235: ENCODE reports NoCodes before BadLength, DECODE NoTree before
BadLength, and on either nothing is written but the status. -/
def Obligations.FlagsAreCheckedBeforeLengths : Prop :=
  ∀ s : State,
    (s.codesValid = false →
      exec .encode s = .next { s with engine := .idle, done := true, err := some .noCodes, errInfo := 0 }) ∧
    (s.codesValid = true → s.params.symCap < s.inLen.toNat →
      exec .encode s = .next { s with engine := .idle, done := true, err := some .badLength, errInfo := s.inLen }) ∧
    (s.treeValid = false →
      exec .decode s = .next { s with engine := .idle, done := true, err := some .noTree, errInfo := 0 }) ∧
    (s.treeValid = true → s.params.bitCap < s.bitLen.toNat →
      exec .decode s = .next { s with engine := .idle, done := true, err := some .badLength, errInfo := s.bitLen })

/-- 43_encoder.md R185, its equation (INFERENCE): when FREQ is the count of the input, BIT_LEN is the sum over the symbols of count times code
length. -/
def Obligations.EncodedLengthIsTheWeightedSum : Prop :=
  ∀ (s t : State) (syms : Nat → Byte), s.params.legal →
    (∀ i, i < s.inLen.toNat → s.symAt i = some (syms i)) →
    (∀ b, (freqAt s.freq b).toNat = ((List.range s.inLen.toNat).map syms).count b) →
    exec .encode s = .next t → t.err = none →
    t.bitLen.toNat = (((List.range 256).map (BitVec.ofNat 8)).map (fun b =>
      (freqAt s.freq b).toNat * (codeAt s.codes b).len.toNat)).sum

/-- 43_encoder.md R186 (INFERENCE): ENCODE run twice with no write between gives the same BIT_BUF, BIT_LEN and outcome. -/
def Obligations.EncodeTwiceIsTheSame : Prop :=
  ∀ s t : State, s.params.legal → exec .encode s = .next t → exec .encode t = .next t

/-! DECODE. (A list `xs` of codes with their symbols; the stream is the concatenation of the codes.) -/

/-- 44_decoder.md R190, R191, R192, and R196, R199 (INFERENCE): a stream of complete codes decodes without error into the matching symbols, when
they fit; OUT_LEN is their number, and nothing else changes. -/
def Obligations.DecodeReadsCompleteCodes : Prop :=
  ∀ (s : State) (xs : List (List Bool × Byte)), s.treeValid = true → s.bitLen.toNat ≤ s.params.bitCap →
    (∀ x ∈ xs, CodeOf s.arena s.root x.1 x.2) → s.bitLen.toNat = (xs.flatMap Prod.fst).length →
    (∀ i, i < s.bitLen.toNat → s.bitAt i = some ((xs.flatMap Prod.fst).getD i false)) →
    xs.length ≤ s.params.outCap →
    ∃ mem, Wrote s.mem mem outBase (xs.map Prod.snd) ∧
      exec .decode s = .next { s with
        outLen := BitVec.ofNat 32 xs.length, mem := mem, engine := .idle, done := true, err := none, errInfo := 0 }

/-- 44_decoder.md R194: a stream that ends partway through a code raises TruncatedStream with the index of that code's first bit;
the symbols before it are emitted. -/
def Obligations.DecodeTruncatedStream : Prop :=
  ∀ (s : State) (xs : List (List Bool × Byte)) (p : List Bool) (n : NodeIdx), s.treeValid = true →
    s.bitLen.toNat ≤ s.params.bitCap → (nodeAt s.arena s.root).isLeaf = false →
    (∀ x ∈ xs, CodeOf s.arena s.root x.1 x.2) → p ≠ [] → walk s.arena s.root p = some n → n ≠ 0x1FF →
    (nodeAt s.arena n).isLeaf = false → s.bitLen.toNat = (xs.flatMap Prod.fst ++ p).length →
    (∀ i, i < s.bitLen.toNat → s.bitAt i = some ((xs.flatMap Prod.fst ++ p).getD i false)) →
    xs.length ≤ s.params.outCap →
    ∃ mem, Wrote s.mem mem outBase (xs.map Prod.snd) ∧
      exec .decode s = .next { s with
        outLen := BitVec.ofNat 32 xs.length, mem := mem, engine := .idle, done := true, err := some .truncatedStream,
        errInfo := BitVec.ofNat 32 (xs.flatMap Prod.fst).length }

/-- 44_decoder.md R192, R193: (a) a bit 1 at a leaf root, (b) a bit that names a child that is NIL, raises MalformedStream with the
bit's index; the symbols before it are emitted. -/
def Obligations.DecodeMalformedStream : Prop :=
  ∀ (s : State) (xs : List (List Bool × Byte)) (p : List Bool) (b : Bool), s.treeValid = true →
    s.bitLen.toNat ≤ s.params.bitCap → (∀ x ∈ xs, CodeOf s.arena s.root x.1 x.2) →
    ((nodeAt s.arena s.root).isLeaf = true ∧ p = [] ∧ b = true ∨
      ∃ n l r w, walk s.arena s.root p = some n ∧ nodeAt s.arena n = .internal l r w ∧ (if b then r else l) = 0x1FF) →
    (xs.flatMap Prod.fst ++ p).length < s.bitLen.toNat →
    (∀ i, i ≤ (xs.flatMap Prod.fst ++ p).length → s.bitAt i = some ((xs.flatMap Prod.fst ++ p ++ [b]).getD i false)) →
    (∀ i, i < s.bitLen.toNat → s.bitAt i ≠ none) → xs.length ≤ s.params.outCap →
    ∃ mem, Wrote s.mem mem outBase (xs.map Prod.snd) ∧
      exec .decode s = .next { s with
        outLen := BitVec.ofNat 32 xs.length, mem := mem, engine := .idle, done := true, err := some .malformedStream,
        errInfo := BitVec.ofNat 32 (xs.flatMap Prod.fst ++ p).length }

/-- 44_decoder.md R195: a code that completes after OUT_CAP symbols raises OutputOverflow with the index of its last bit, and
OUT_LEN = OUT_CAP. -/
def Obligations.DecodeOutputOverflow : Prop :=
  ∀ (s : State) (xs : List (List Bool × Byte)) (p : List Bool) (b : Byte), s.treeValid = true →
    s.bitLen.toNat ≤ s.params.bitCap → (∀ x ∈ xs, CodeOf s.arena s.root x.1 x.2) → CodeOf s.arena s.root p b →
    (xs.flatMap Prod.fst ++ p).length ≤ s.bitLen.toNat →
    (∀ i, i < (xs.flatMap Prod.fst ++ p).length → s.bitAt i = some ((xs.flatMap Prod.fst ++ p).getD i false)) →
    (∀ i, i < s.bitLen.toNat → s.bitAt i ≠ none) → xs.length = s.params.outCap →
    ∃ mem, Wrote s.mem mem outBase (xs.map Prod.snd) ∧
      exec .decode s = .next { s with
        outLen := BitVec.ofNat 32 s.params.outCap, mem := mem, engine := .idle, done := true, err := some .outputOverflow,
        errInfo := BitVec.ofNat 32 ((xs.flatMap Prod.fst ++ p).length - 1) }

/-- 44_decoder.md R200, and R197 (INFERENCE): DECODE depends on the tree, the stream below BIT_LEN and the capacities alone: two states that agree
on these decode alike, whatever their CODE tables, their CODES_VALID and their bits past BIT_LEN; the partial output of a stream
error is the same too. -/
def Obligations.DecodeDependsOnTreeAndStream : Prop :=
  ∀ s1 s2 t1 t2 : State, s1.treeValid = s2.treeValid → s1.arena = s2.arena → s1.root = s2.root → s1.bitLen = s2.bitLen →
    s1.params = s2.params → (∀ i, i < s1.bitLen.toNat → s1.bitAt i = s2.bitAt i) → s1.outLen = s2.outLen →
    exec .decode s1 = .next t1 → exec .decode s2 = .next t2 →
    t1.err = t2.err ∧ t1.errInfo = t2.errInfo ∧ t1.outLen = t2.outLen ∧
      (s1.treeValid = true → s1.bitLen.toNat ≤ s1.params.bitCap → ∀ i, i < t1.outLen.toNat → t1.outAt i = t2.outAt i)

/-! The whole pipeline. -/

/-- 44_decoder.md R198 (INFERENCE): COUNT, BUILD, ASSIGN and ENCODE of n ≥ 1 symbols, each run by the host and completing without error, with
no write to SYM_BUF, IN_LEN or FREQ between them, then, with no write to BIT_BUF or BIT_LEN between, DECODE: it completes without
error and gives the n symbols back, provided n ≤ OUT_CAP. (`u1` to `u4` are the states the host leaves between two commands.) -/
def Obligations.RoundTrip : Prop :=
  ∀ s s1 u1 s2 u2 s3 u3 s4 u4 : State,
    Inv s → s.engine = .idle → 1 ≤ s.inLen.toNat → s.inLen.toNat ≤ s.params.outCap →
    runCommand .count s = .next s1 → s1.err = none → KeptFor s1 u1 →
    runCommand .build u1 = .next s2 → s2.err = none → KeptFor s2 u2 →
    runCommand .assign u2 = .next s3 → s3.err = none → KeptFor s3 u3 →
    runCommand .encode u3 = .next s4 → s4.err = none → KeptFor s4 u4 →
    u4.bitLen = s4.bitLen → (∀ i, i < s4.bitLen.toNat → u4.bitAt i = s4.bitAt i) →
    ∃ s5, runCommand .decode u4 = .next s5 ∧ s5.err = none ∧ s5.outLen = s.inLen ∧
      ∀ i, i < s.inLen.toNat → some (s5.outAt i) = s.symAt i

/-- 70_reset_and_hazards.md R267: with TIE_ORDER = SEQ, another block, or the same one after a reset, that has the FREQ table, the
stream and BIT_LEN restored and runs BUILD decodes the stream as the first one did. -/
def Obligations.SavedFreqRebuildsTheDecoder : Prop :=
  ∀ s1 s2 b2 t1 t2 : State, Inv s1 → Inv s2 → s1.params = s2.params → s1.params.tie = .seq →
    s1.freq = s2.freq → s1.bitLen = s2.bitLen → (∀ i, i < s1.bitLen.toNat → s1.bitAt i = s2.bitAt i) →
    s1.treeValid = true → s1.bitLen.toNat ≤ s1.params.bitCap →
    exec .decode s1 = .next t1 → exec .build s2 = .next b2 → exec .decode b2 = .next t2 →
    b2.err = none ∧ t2.err = t1.err ∧ t2.errInfo = t1.errInfo ∧ t2.outLen = t1.outLen ∧
      ∀ i, i < t1.outLen.toNat → t2.outAt i = t1.outAt i

/-- 60_exceptions.md R250 (INFERENCE): after a BUILD that raised EmptyInput, ASSIGN raises NoTree, ENCODE NoCodes and DECODE NoTree. -/
def Obligations.EmptyInputStaysFatal : Prop :=
  ∀ s t : State, exec .build s = .next t → t.err = some .emptyInput →
    t.treeValid = false ∧ t.codesValid = false ∧
    (∃ u, exec .assign t = .next u ∧ u.err = some .noTree) ∧
    (∃ u, exec .encode t = .next u ∧ u.err = some .noCodes) ∧
    (∃ u, exec .decode t = .next u ∧ u.err = some .noTree)

/-! The host's reads and writes. -/

/-- 10_state.md R32 to R45, 45_host_interface.md R211: what each register reads while idle; a read changes nothing of the block. -/
def Obligations.RegisterReads : Prop :=
  ∀ (s : State) (a : Word), s.engine = .idle →
    (wordOffset a = 0x000 → hostRead a s = { s with rdata := some 0x48554646 }) ∧
    (wordOffset a = 0x004 → hostRead a s = { s with rdata := some (if s.ie then 1 else 0) }) ∧
    (wordOffset a = 0x008 → hostRead a s = { s with rdata := some s.statusWord }) ∧
    (wordOffset a = 0x00C → hostRead a s = { s with rdata := some s.lastCmd }) ∧
    (wordOffset a = 0x010 → hostRead a s = { s with rdata := some s.errInfo }) ∧
    (wordOffset a = 0x014 → hostRead a s = { s with rdata := some s.inLen }) ∧
    (wordOffset a = 0x018 → hostRead a s = { s with rdata := some s.bitLen }) ∧
    (wordOffset a = 0x01C → hostRead a s = { s with rdata := some s.outLen }) ∧
    (wordOffset a = 0x020 → hostRead a s = { s with rdata := some s.nleaf }) ∧
    (wordOffset a = 0x024 → hostRead a s = { s with rdata := some s.nnode }) ∧
    (wordOffset a = 0x028 → hostRead a s = { s with rdata := some (BitVec.ofNat 32 s.root.toNat) }) ∧
    (wordOffset a = 0x030 → hostRead a s = { s with rdata := some (BitVec.ofNat 32 s.params.symCap) }) ∧
    (wordOffset a = 0x034 → hostRead a s = { s with rdata := some (BitVec.ofNat 32 s.params.bitCap) }) ∧
    (wordOffset a = 0x038 → hostRead a s = { s with rdata := some (BitVec.ofNat 32 s.params.outCap) })

/-- 10_state.md R35, R58, 60_exceptions.md R231: the fields of STATUS. -/
def Obligations.StatusFields : Prop :=
  ∀ s : State,
    (s.statusWord.getLsbD 0 = true ↔ ∃ c, s.engine = .busy c) ∧
    s.statusWord.getLsbD 1 = s.done ∧ (s.statusWord.getLsbD 2 = true ↔ s.err ≠ none) ∧ s.statusWord.getLsbD 3 = s.wdrop ∧
    s.statusWord.getLsbD 4 = s.treeValid ∧ s.statusWord.getLsbD 5 = s.codesValid ∧
    s.statusWord.extractLsb' 6 2 = 0 ∧ s.statusWord.extractLsb' 12 20 = 0 ∧
    (s.statusWord.extractLsb' 8 4).toNat =
      match s.err with
      | none => 0
      | some .emptyInput => 1
      | some .unknownSymbol => 2
      | some .malformedStream => 3
      | some .truncatedStream => 4
      | some .illegalCommand => 5
      | some .noTree => 6
      | some .noCodes => 7
      | some .badLength => 8
      | some .outputOverflow => 9

/-- 45_host_interface.md R212, R221, 10_state.md R38, R39: register writes while idle: IN_LEN and BIT_LEN store, STATUS is W1C,
CTRL bit 1 clear sets IE, read-only registers and reserved offsets ignore the write. -/
def Obligations.RegisterWrites : Prop :=
  ∀ (s : State) (a v : Word), s.engine = .idle →
    (wordOffset a = 0x014 → hostWrite a v s = { s with inLen := v }) ∧
    (wordOffset a = 0x018 → hostWrite a v s = { s with bitLen := v }) ∧
    (wordOffset a = 0x008 →
      hostWrite a v s = { s with done := s.done && !v.getLsbD 1, wdrop := s.wdrop && !v.getLsbD 3 }) ∧
    (wordOffset a = 0x004 → v.getLsbD 1 = false → hostWrite a v s = { s with ie := v.getLsbD 0 }) ∧
    (wordOffset a ∈ [0x000, 0x010, 0x01C, 0x020, 0x024, 0x028, 0x02C, 0x030, 0x034, 0x038] → hostWrite a v s = s)

/-- 20_memory.md R83, 45_host_interface.md R219: the FREQ window; a write clears both validity flags. -/
def Obligations.FreqWindow : Prop :=
  ∀ (s : State) (a v : Word) (b : Byte), s.engine = .idle → wordOffset a = 0x00400 + 4 * b.toNat →
    hostRead a s = { s with rdata := some (freqAt s.freq b) } ∧
    ∃ freq, hostWrite a v s = { s with freq := freq, treeValid := false, codesValid := false } ∧
      freqAt freq b = v ∧ ∀ b', b' ≠ b → freqAt freq b' = freqAt s.freq b'

/-- 20_memory.md R84: the NODE window, word by word for the three forms of an entry; slot 511 reads 0; writes are ignored. -/
def Obligations.NodeWindow : Prop :=
  ∀ (s : State) (a v : Word) (n : NodeIdx) (k : Nat), s.engine = .idle → k < 4 →
    wordOffset a = 0x02000 + 16 * n.toNat + 4 * k →
    hostWrite a v s = s ∧
    ∃ x : Word, hostRead a s = { s with rdata := some x } ∧
      x.toNat =
        if n.toNat = 511 then 0
        else match nodeAt s.arena n, k with
          | .empty, 0 => 0x01FF01FF
          | .empty, _ => 0
          | .leaf _ _, 0 => 0x81FF01FF
          | .leaf b _, 1 => b.toNat
          | .leaf _ w, 2 => w.toNat % 2 ^ 32
          | .leaf _ w, _ => w.toNat / 2 ^ 32
          | .internal l r _, 0 => l.toNat + 2 ^ 16 * r.toNat
          | .internal _ _ _, 1 => 0
          | .internal _ _ w, 2 => w.toNat % 2 ^ 32
          | .internal _ _ w, _ => w.toNat / 2 ^ 32

/-- 20_memory.md R85: the CODE window, CLEN, CBITS0 to CBITS7 most significant bit first, and the reserved words; writes are
ignored. -/
def Obligations.CodeWindow : Prop :=
  ∀ (s : State) (a v : Word) (b : Byte) (k : Nat), s.engine = .idle → k < 16 →
    wordOffset a = 0x04000 + 64 * b.toNat + 4 * k →
    hostWrite a v s = s ∧
    ∃ x : Word, hostRead a s = { s with rdata := some x } ∧
      (k = 0 → x.toNat = (codeAt s.codes b).len.toNat + if (codeAt s.codes b).present then 2 ^ 31 else 0) ∧
      (1 ≤ k → k ≤ 8 → ∀ t, t < 32 → x.getLsbD (31 - t) = (codeAt s.codes b).bits.getLsbD (32 * (k - 1) + t)) ∧
      (9 ≤ k → x = 0)

/-- 20_memory.md R86: the SYM window: SYM[4w+j] in bits 8j+7..8j; a write replaces the four bytes and no other; past SYM_CAP words
read 0 and writes are ignored. -/
def Obligations.SymWindow : Prop :=
  ∀ (s : State) (a v : Word) (w : Nat), s.engine = .idle → w < 16384 → wordOffset a = 0x10000 + 4 * w →
    (4 * w < s.params.symCap →
      (∃ x : Word, hostRead a s = { s with rdata := some x } ∧
        ∀ j, j < 4 → x.extractLsb' (8 * j) 8 = bufByte s.mem s.symBg (symAddr (4 * w + j))) ∧
      ∃ mem, hostWrite a v s = { s with mem := mem } ∧
        (∀ j, j < 4 → memRead mem (symAddr (4 * w + j)) = some (v.extractLsb' (8 * j) 8)) ∧
        ∀ x, (x < symAddr (4 * w) ∨ symAddr (4 * w + 3) < x) → memRead mem x = memRead s.mem x) ∧
    (s.params.symCap ≤ 4 * w → hostRead a s = { s with rdata := some 0 } ∧ hostWrite a v s = s)

/-- 20_memory.md R87: the BIT window: BIT(32w+t) in bit 31-t; a write replaces the 32 bits and no other; past BIT_CAP words read 0
and writes are ignored. -/
def Obligations.BitWindow : Prop :=
  ∀ (s : State) (a v : Word) (w : Nat), s.engine = .idle → w < 16384 → wordOffset a = 0x20000 + 4 * w →
    (32 * w < s.params.bitCap →
      (∃ x : Word, hostRead a s = { s with rdata := some x } ∧
        ∀ t, t < 32 →
          x.getLsbD (31 - t) = (bufByte s.mem s.bitBg (bitAddr (32 * w + t))).getLsbD (bitPos (32 * w + t))) ∧
      ∃ mem, hostWrite a v s = { s with mem := mem } ∧
        (∀ t, t < 32 → (memRead mem (bitAddr (32 * w + t))).map (fun b => b.getLsbD (bitPos (32 * w + t))) =
          some (v.getLsbD (31 - t))) ∧
        ∀ x, (x < bitBase + 4 * w ∨ bitBase + 4 * w + 4 ≤ x) → memRead mem x = memRead s.mem x) ∧
    (s.params.bitCap ≤ 32 * w → hostRead a s = { s with rdata := some 0 } ∧ hostWrite a v s = s)

/-- 20_memory.md R88: the OUT window: OUT[4w+j] in bits 8j+7..8j; past OUT_CAP words read 0; writes are ignored. -/
def Obligations.OutWindow : Prop :=
  ∀ (s : State) (a v : Word) (w : Nat), s.engine = .idle → w < 16384 → wordOffset a = 0x30000 + 4 * w →
    hostWrite a v s = s ∧
    (4 * w < s.params.outCap → ∃ x : Word, hostRead a s = { s with rdata := some x } ∧
      ∀ j, j < 4 → x.extractLsb' (8 * j) 8 = s.outAt (4 * w + j)) ∧
    (s.params.outCap ≤ 4 * w → hostRead a s = { s with rdata := some 0 })

/-- 20_memory.md R89, 10_state.md R45: reserved words read 0 and ignore writes while idle, and a write while busy sets WDROP: the
reserved registers and ranges, NODE slot 511, the words of a CODE entry from +0x24, and the words of a buffer past its capacity.
No access of any offset stops the machine: a step whose event it is answers a next state (that accesses are events: log entry 2). -/
def Obligations.ReservedOffsets : Prop :=
  (∀ (s : State) (a v : Word),
    (wordOffset a = 0x02C ∨ (0x03C ≤ wordOffset a ∧ wordOffset a < 0x400) ∨
      (0x00800 ≤ wordOffset a ∧ wordOffset a < 0x02000) ∨ (0x08000 ≤ wordOffset a ∧ wordOffset a < 0x10000) ∨
      (0x03FF0 ≤ wordOffset a ∧ wordOffset a < 0x04000) ∨
      (0x04000 ≤ wordOffset a ∧ wordOffset a < 0x08000 ∧ 0x24 ≤ wordOffset a % 64) ∨
      (0x10000 + s.params.symCap ≤ wordOffset a ∧ wordOffset a < 0x20000) ∨
      (0x20000 ≤ wordOffset a ∧ wordOffset a < 0x30000 ∧ s.params.bitCap ≤ 8 * (wordOffset a - 0x20000)) ∨
      0x30000 + s.params.outCap ≤ wordOffset a) →
    (s.engine = .idle → hostRead a s = { s with rdata := some 0 } ∧ hostWrite a v s = s) ∧
    (∀ c, s.engine = .busy c → hostWrite a v s = { s with wdrop := true })) ∧
  ∀ (s : State) (q : List Event) (a v : Word),
    (s.inputs = .hostRead a :: q → step s = .next (hostRead a { s with inputs := q })) ∧
    (s.inputs = .hostWrite a v :: q → step s = .next (hostWrite a v { s with inputs := q }))

/-- 20_memory.md R80, R90: an access acts by bits 17:2 of its offset; bits 1:0 and the bits above 17 are ignored. -/
def Obligations.OffsetBitsIgnored : Prop :=
  ∀ (a b v : Word) (s : State), a.extractLsb' 2 16 = b.extractLsb' 2 16 →
    hostRead a s = hostRead b s ∧ hostWrite a v s = hostWrite b v s

/-- 45_host_interface.md R214: a host write while busy acts on CTRL and STATUS as while idle; to any other offset it is dropped and
sets WDROP, and no other state changes. -/
def Obligations.WritesWhileBusy : Prop :=
  ∀ (s : State) (c a v : Word), s.engine = .busy c →
    (wordOffset a ≠ 0x004 → wordOffset a ≠ 0x008 → hostWrite a v s = { s with wdrop := true }) ∧
    (wordOffset a = 0x008 →
      hostWrite a v s = { s with done := s.done && !v.getLsbD 1, wdrop := s.wdrop && !v.getLsbD 3 }) ∧
    (wordOffset a = 0x004 → hostWrite a v s = if v.getLsbD 1 then softReset s else { s with ie := v.getLsbD 0 })

/-- 45_host_interface.md R215: while busy ID, CTRL, STATUS, CMD and the capacities read as while idle, STATUS with BUSY = 1,
DONE = 0 and ERR_CODE = 0; a read of any other offset returns a fresh draw. -/
def Obligations.ReadsWhileBusy : Prop :=
  ∀ (s : State) (c a : Word), Inv s → s.engine = .busy c →
    (wordOffset a = 0x000 → hostRead a s = { s with rdata := some 0x48554646 }) ∧
    (wordOffset a = 0x004 → hostRead a s = { s with rdata := some (if s.ie then 1 else 0) }) ∧
    (wordOffset a = 0x008 → hostRead a s = { s with rdata := some s.statusWord } ∧ s.statusWord.getLsbD 0 = true ∧
      s.statusWord.getLsbD 1 = false ∧ s.statusWord.extractLsb' 8 4 = 0) ∧
    (wordOffset a = 0x00C → hostRead a s = { s with rdata := some c }) ∧
    (wordOffset a = 0x030 → hostRead a s = { s with rdata := some (BitVec.ofNat 32 s.params.symCap) }) ∧
    (wordOffset a = 0x034 → hostRead a s = { s with rdata := some (BitVec.ofNat 32 s.params.bitCap) }) ∧
    (wordOffset a = 0x038 → hostRead a s = { s with rdata := some (BitVec.ofNat 32 s.params.outCap) }) ∧
    (wordOffset a ∉ [0x000, 0x004, 0x008, 0x00C, 0x030, 0x034, 0x038] →
      hostRead a s = { s with rdata := some (Config.freeWord s.draws), draws := s.draws + 1 })

/-- 60_exceptions.md R240, 45_host_interface.md R222: the interrupt output follows IE and DONE: a completion, with or without error,
drives it to IE; command issue, clearing DONE or IE, and any reset lower it; setting IE while DONE = 1 raises it. -/
def Obligations.InterruptFollowsCompletion : Prop :=
  (∀ s : State, s.irq = true ↔ s.ie = true ∧ s.done = true) ∧
  (∀ (i : Instr) (s t : State), exec i s = .next t → t.irq = s.ie) ∧
  (∀ (s : State) (a v : Word),
    (s.engine = .idle → wordOffset a = 0x00C → (hostWrite a v s).irq = false) ∧
    (wordOffset a = 0x008 → (hostWrite a v s).irq = (s.irq && !v.getLsbD 1)) ∧
    (wordOffset a = 0x004 → (hostWrite a v s).irq = (s.done && v.getLsbD 0 && !v.getLsbD 1))) ∧
  ∀ s : State, (hardReset s).irq = false

/-! Reset. -/

/-- 10_state.md R63: what the host reads after hard reset, with the default parameters; no interrupt. -/
def Obligations.ResetValues : Prop :=
  [0x000, 0x004, 0x008, 0x00C, 0x010, 0x014, 0x018, 0x01C, 0x020, 0x024, 0x028, 0x030, 0x034, 0x038].map
      (fun a => (hostRead a State.reset).rdata) =
    [0x48554646, 0, 0, 0, 0, 0, 0, 0, 0, 0, 0x1FF, 0x1000, 0x8000, 0x8000].map some ∧
  State.reset.engine = .idle ∧ State.reset.irq = false ∧ State.reset.mem = [] ∧
  (∀ b, freqAt State.reset.freq b = 0) ∧ (∀ n, nodeAt State.reset.arena n = .empty) ∧
  ∀ b, codeAt State.reset.codes b = { present := false, len := 0, bits := 0 }

/-- 70_reset_and_hazards.md R260, R261: hard reset, idle or busy, sets everything to its reset value and makes the three buffers
unspecified, with a fresh draw; the parameters and the model's own fields stay (log entry 22). -/
def Obligations.HardResetSetsEverything : Prop :=
  ∀ (s : State) (q : List Event), s.inputs = .hardReset :: q →
    step s = .next { State.reset with
      params := s.params, inputs := q, rdata := s.rdata, symBg := .unwritten s.draws, bitBg := .unwritten s.draws,
      outBg := .unwritten s.draws, draws := s.draws + 1 }

/-- 45_host_interface.md R220, 70_reset_and_hazards.md R262, R263: soft reset, by a write to CTRL with bit 1 set. While idle
everything but the three buffers is reset; while busy also, and the buffer the command could write becomes unspecified: BIT_BUF for
ENCODE, OUT_BUF for DECODE, with a fresh draw, and no other byte changes. -/
def Obligations.SoftResetKeepsTheBuffers : Prop :=
  ∀ (s : State) (a v : Word), wordOffset a = 0x004 → v.getLsbD 1 = true →
    ((s.engine = .idle ∨ ∃ c, s.engine = .busy c ∧ decode c ≠ .encode ∧ decode c ≠ .decode) →
      hostWrite a v s = { State.reset with
        params := s.params, mem := s.mem, symBg := s.symBg, bitBg := s.bitBg, outBg := s.outBg, inputs := s.inputs,
        rdata := s.rdata, draws := s.draws }) ∧
    (∀ c, s.engine = .busy c → decode c = .encode →
      ∃ mem, hostWrite a v s = { State.reset with
        params := s.params, mem := mem, symBg := s.symBg, bitBg := .drawn s.draws, outBg := s.outBg, inputs := s.inputs,
        rdata := s.rdata, draws := s.draws + 1 } ∧
        ∀ x, memRead mem x =
          if bitBase ≤ x ∧ x < bitBase + s.params.bitCap / 8 then none else memRead s.mem x) ∧
    (∀ c, s.engine = .busy c → decode c = .decode →
      ∃ mem, hostWrite a v s = { State.reset with
        params := s.params, mem := mem, symBg := s.symBg, bitBg := s.bitBg, outBg := .drawn s.draws, inputs := s.inputs,
        rdata := s.rdata, draws := s.draws + 1 } ∧
        ∀ x, memRead mem x = if outBase ≤ x ∧ x < outBase + s.params.outCap then none else memRead s.mem x)

/-! Invariants and rules about every step. -/

/-- The invariant holds after reset. -/
def Obligations.ResetMeetsTheInvariant : Prop := Inv State.reset

/-- 10_state.md R47 (INFERENCE) with the canonical form of memory: every step keeps the invariant. -/
def Obligations.EveryStepKeepsTheInvariant : Prop := ∀ s t : State, Inv s → step s = .next t → Inv t

/-- 10_state.md R46: what sets each flag: BUSY only command acceptance, DONE and an error only a completion, WDROP only a dropped
write, TREE_VALID only the completion of a BUILD without error, CODES_VALID only that of an ASSIGN without error. (A step is the
completion of the running command when it is exec of it, at the state with the events that are left.) -/
def Obligations.FlagsAreSetOnlyAsListed : Prop :=
  ∀ s t : State, step s = .next t →
    (s.engine = .idle → t.engine ≠ .idle →
      ∃ a v q, s.inputs = .hostWrite a v :: q ∧ wordOffset a = 0x00C ∧ t.engine = .busy v) ∧
    ((s.done = false ∧ t.done = true) ∨ (s.err = none ∧ t.err ≠ none) →
      ∃ c, s.engine = .busy c ∧ exec (decode c) { s with inputs := t.inputs } = .next t) ∧
    (s.wdrop = false → t.wdrop = true →
      ∃ c a v q, s.engine = .busy c ∧ s.inputs = .hostWrite a v :: q ∧ wordOffset a ≠ 0x004 ∧ wordOffset a ≠ 0x008) ∧
    (s.treeValid = false → t.treeValid = true →
      ∃ c, s.engine = .busy c ∧ decode c = .build ∧ t.err = none ∧ exec .build { s with inputs := t.inputs } = .next t) ∧
    (s.codesValid = false → t.codesValid = true →
      ∃ c, s.engine = .busy c ∧ decode c = .assign ∧ t.err = none ∧ exec .assign { s with inputs := t.inputs } = .next t)

/-- 10_state.md R47 (INFERENCE): every step that changes FREQ leaves both validity flags 0, and is the completion of a COUNT, a host
write to the FREQ window while idle, a soft reset or a hard reset. -/
def Obligations.FreqChangesInvalidate : Prop :=
  ∀ s t : State, step s = .next t → t.freq ≠ s.freq →
    t.treeValid = false ∧ t.codesValid = false ∧
    ((∃ c, s.engine = .busy c ∧ decode c = .count ∧ exec .count { s with inputs := t.inputs } = .next t) ∨
      (∃ q, s.inputs = .hardReset :: q) ∨
      ∃ a v q, s.inputs = .hostWrite a v :: q ∧
        ((wordOffset a = 0x004 ∧ v.getLsbD 1 = true) ∨
          (s.engine = .idle ∧ 0x00400 ≤ wordOffset a ∧ wordOffset a < 0x00800)))

/-- 10_state.md R41: no step changes a capacity, nor any other implementation parameter. -/
def Obligations.ParametersNeverChange : Prop := ∀ s t : State, step s = .next t → t.params = s.params
end

