-- ==== Sys2Proof/Laws/Bits.lean ====
section
/-! SUPPORT. The bits and bytes of the words the operations build. -/

namespace Sys2Proof.Machine

theorem natOfBits_lt (n : Nat) (f : Nat → Bool) : natOfBits n f < 2 ^ n := by
  induction n with
  | zero => simp [natOfBits]
  | succ n ih => simp only [natOfBits, pow_succ]; split <;> omega

theorem natOfBits_testBit (n : Nat) (f : Nat → Bool) (i : Nat) : (natOfBits n f).testBit i = (decide (i < n) && f i) := by
  induction n with
  | zero => simp [natOfBits]
  | succ n ih =>
    have hlt := natOfBits_lt n f
    by_cases hf : f n
    · have h1 : natOfBits (n + 1) f = 2 ^ n + natOfBits n f := by simp [natOfBits, hf, Nat.add_comm]
      rw [h1]
      rcases Nat.lt_trichotomy i n with h | h | h
      · rw [Nat.testBit_two_pow_add_gt h, ih]; simp [h, Nat.lt_succ_of_lt h]
      · subst h; rw [Nat.testBit_two_pow_add_eq, ih]; simp [hf]
      · have h2 : 2 ^ n + natOfBits n f < 2 ^ i :=
          lt_of_lt_of_le (by omega : _ < 2 ^ n * 2) (by rw [← pow_succ]; exact Nat.pow_le_pow_right (by omega) h)
        rw [Nat.testBit_lt_two_pow h2]; simp; omega
    · have h1 : natOfBits (n + 1) f = natOfBits n f := by simp [natOfBits, hf]
      rw [h1, ih]
      by_cases h : i = n
      · subst h; simp [hf]
      · have : (i < n + 1) = (i < n) := by apply propext; omega
        simp [this]

@[simp] theorem getLsbD_bitsOfFn (n : Nat) (f : Nat → Bool) (i : Nat) :
    (bitsOfFn n f).getLsbD i = (decide (i < n) && f i) := by
  rw [bitsOfFn, BitVec.getLsbD_ofNat, natOfBits_testBit]; simp

/-- BIT(32w+t) sits in bit 31-t of its word (20_memory.md R87). -/
@[simp] theorem getLsbD_wordOfBits (p : List Bool) (j : Nat) :
    (wordOfBits p).getLsbD j = (decide (j < 32) && p.getD (31 - j) false) := by
  simp [wordOfBits]

@[simp] theorem packWords_length (n : Nat) (p : List Bool) : (packWords n p).length = n := by
  induction n generalizing p with
  | zero => rfl
  | succ n ih => simp [packWords, ih]

@[simp] theorem bytesOfWord_length (v : Word) : (bytesOfWord v).length = 4 := rfl

/-- Byte `j` of a word is its bits 8j+7..8j (20_memory.md R86). -/
theorem bytesOfWord_getElem (v : Word) (j : Nat) (h : j < 4) : (bytesOfWord v)[j]? = some (v.extractLsb' (8 * j) 8) := by
  match j, h with
  | 0, _ => rfl
  | 1, _ => rfl
  | 2, _ => rfl
  | 3, _ => rfl

theorem getLsbD_wordOfBytes (b : Nat → Byte) (i : Nat) (h : i < 32) :
    (wordOfBytes b).getLsbD i = (b (i / 8)).getLsbD (i % 8) := by
  simp only [wordOfBytes, BitVec.getLsbD_append]
  rcases (by omega : i < 8 ∨ (8 ≤ i ∧ i < 16) ∨ (16 ≤ i ∧ i < 24) ∨ (24 ≤ i ∧ i < 32)) with h1 | ⟨h1, h2⟩ | ⟨h1, h2⟩ | ⟨h1, h2⟩
  · simp [h1, Nat.div_eq_of_lt h1, Nat.mod_eq_of_lt h1]
  · have e : i / 8 = 1 := by omega
    have e2 : i % 8 = i - 8 := by omega
    rw [if_neg (by omega), if_pos (by omega), e, e2]
  · have e : i / 8 = 2 := by omega
    have e2 : i % 8 = i - 8 - 8 := by omega
    rw [if_neg (by omega), if_neg (by omega), if_pos (by omega), e, e2]
  · have e : i / 8 = 3 := by omega
    have e2 : i % 8 = i - 8 - 8 - 8 := by omega
    rw [if_neg (by omega), if_neg (by omega), if_neg (by omega), e, e2]

/-- A word is its four bytes (20_memory.md R86). -/
theorem wordOfBytes_bytesOfWord (v : Word) : wordOfBytes (fun j => v.extractLsb' (8 * j) 8) = v := by
  apply BitVec.eq_of_getLsbD_eq
  intro i hi
  rw [getLsbD_wordOfBytes _ i hi, BitVec.getLsbD_extractLsb']
  have : 8 * (i / 8) + i % 8 = i := by omega
  simp [this]; omega

/-- The code of an entry that holds a code of at most 255 bits (10_state.md R53). -/
theorem code_ofCode (p : List Bool) (h : p.length ≤ 255) : (CodeEntry.ofCode p).code = p := by
  apply List.ext_getElem
  · simp [CodeEntry.code, CodeEntry.ofCode]; omega
  · intro i h1 h2
    simp [CodeEntry.code, CodeEntry.ofCode, List.getD, h2]
    omega

end Sys2Proof.Machine
end

