-- ==== Sys2Proof/Laws/Memory.lean ====
section
/-! SUPPORT. The laws of buffer memory: a read after a write, what a write leaves alone, and the canonical form. -/

namespace Sys2Proof.Machine

@[simp] theorem memRead_nil (a : Nat) : memRead [] a = none := rfl

theorem memRead_append (m1 m2 : Memory) (a : Nat) : memRead (m1 ++ m2) a = (memRead m1 a).or (memRead m2 a) := by
  induction m1 with
  | nil => simp
  | cons c m1 ih =>
    obtain ⟨x, b⟩ := c
    by_cases h : x = a <;> simp [memRead, h, ih]

theorem memRead_filter_keep (m : Memory) (p : Nat → Bool) (a : Nat) (h : p a = true) :
    memRead (m.filter (fun c => p c.1)) a = memRead m a := by
  induction m with
  | nil => rfl
  | cons c m ih =>
    obtain ⟨x, b⟩ := c
    by_cases hx : x = a
    · subst hx; simp [h, memRead]
    · by_cases hp : p x <;> simp [hp, memRead, hx, ih]

theorem memRead_filter_drop (m : Memory) (p : Nat → Bool) (a : Nat) (h : p a = false) :
    memRead (m.filter (fun c => p c.1)) a = none := by
  induction m with
  | nil => rfl
  | cons c m ih =>
    obtain ⟨x, b⟩ := c
    by_cases hp : p x
    · have : x ≠ a := by rintro rfl; simp_all
      simp [hp, memRead, this, ih]
    · simp [hp, ih]

theorem memRead_cellsFrom (base : Nat) (bs : List Byte) (a : Nat) :
    memRead (cellsFrom base bs) a = if base ≤ a then bs[a - base]? else none := by
  induction bs generalizing base with
  | nil => simp [cellsFrom]
  | cons b bs ih =>
    simp only [cellsFrom, memRead, ih]
    rcases Nat.lt_trichotomy base a with h | h | h
    · rw [if_neg (by omega), if_pos (by omega), if_pos (by omega)]
      have : a - base = (a - (base + 1)) + 1 := by omega
      rw [this]; rfl
    · subst h; simp
    · rw [if_neg (by omega), if_neg (by omega), if_neg (by omega)]

/-- A write leaves every other byte alone. -/
theorem memRead_memWrite_outside (m : Memory) (base : Nat) (bs : List Byte) (a : Nat) (h : a < base ∨ base + bs.length ≤ a) :
    memRead (memWrite m base bs) a = memRead m a := by
  by_cases hb : bs = []
  · simp [memWrite, hb]
  · have hp := List.length_pos_of_ne_nil hb
    simp only [memWrite, hb, if_false, memRead_append, memRead_cellsFrom]
    rcases h with h | h
    · rw [memRead_filter_keep m (fun x => decide (x < base)) a (by simpa using h)]
      rw [memRead_filter_drop m (fun x => decide (base + bs.length ≤ x)) a (by simp; omega)]
      simp [Nat.not_le.2 h]
    · rw [memRead_filter_drop m (fun x => decide (x < base)) a (by simp; omega)]
      rw [memRead_filter_keep m (fun x => decide (base + bs.length ≤ x)) a (by simpa using h)]
      rw [if_pos (by omega), List.getElem?_eq_none (by omega)]; rfl

/-- A read after a write gives the byte written. -/
theorem memRead_memWrite_inside (m : Memory) (base : Nat) (bs : List Byte) (i : Nat) (h : i < bs.length) :
    memRead (memWrite m base bs) (base + i) = some bs[i] := by
  have hb : bs ≠ [] := by rintro rfl; simp at h
  simp only [memWrite, hb, if_false, memRead_append, memRead_cellsFrom]
  rw [memRead_filter_drop m (fun x => decide (x < base)) (base + i) (by simp)]
  simp [h]

/-- What `memWrite` does, whole. -/
theorem wrote_memWrite (m : Memory) (base : Nat) (bs : List Byte) : Wrote m (memWrite m base bs) base bs :=
  ⟨fun i h => memRead_memWrite_inside m base bs i h, fun a h => memRead_memWrite_outside m base bs a h⟩

theorem memRead_memErase (m : Memory) (base n a : Nat) :
    memRead (memErase m base n) a = if base ≤ a ∧ a < base + n then none else memRead m a := by
  split
  · next h => exact memRead_filter_drop m (fun x => decide (x < base) || decide (base + n ≤ x)) a (by simp; omega)
  · next h => exact memRead_filter_keep m (fun x => decide (x < base) || decide (base + n ≤ x)) a (by simp; omega)

theorem mem_cellsFrom {base : Nat} {bs : List Byte} {c : Host.Cell} (h : c ∈ cellsFrom base bs) :
    base ≤ c.1 ∧ c.1 < base + bs.length := by
  induction bs generalizing base with
  | nil => simp [cellsFrom] at h
  | cons b bs ih =>
    simp only [cellsFrom, List.mem_cons] at h
    rcases h with rfl | h
    · simp
    · have := ih h; simp only [List.length_cons]; omega

theorem cellsFrom_wf (base : Nat) (bs : List Byte) : Memory.wf (cellsFrom base bs) := by
  induction bs generalizing base with
  | nil => simp [cellsFrom, Memory.wf]
  | cons b bs ih =>
    refine List.pairwise_cons.2 ⟨fun c hc => ?_, ih (base + 1)⟩
    have := mem_cellsFrom hc; simp; omega

/-- A write keeps the canonical form. -/
theorem memWrite_wf {m : Memory} (h : m.wf) (base : Nat) (bs : List Byte) : (memWrite m base bs).wf := by
  by_cases hb : bs = []
  · simpa [memWrite, hb] using h
  · simp only [memWrite, hb, if_false]
    refine List.pairwise_append.2 ⟨List.pairwise_append.2 ⟨h.filter _, cellsFrom_wf base bs, ?_⟩, h.filter _, ?_⟩
    · intro c hc d hd
      have := mem_cellsFrom hd
      simp only [List.mem_filter, decide_eq_true_eq] at hc
      omega
    · intro c hc d hd
      simp only [List.mem_append, List.mem_filter, decide_eq_true_eq] at hc hd
      rcases hc with hc | hc
      · omega
      · have := mem_cellsFrom hc; omega

/-- Forgetting bytes keeps the canonical form. -/
theorem memErase_wf {m : Memory} (h : m.wf) (base n : Nat) : (memErase m base n).wf := h.filter _

/-- Memory after hard reset is in canonical form. -/
theorem reset_mem_wf : State.reset.mem.wf := List.Pairwise.nil

theorem mem_memWrite {m : Memory} {base : Nat} {bs : List Byte} {c : Host.Cell} (h : c ∈ memWrite m base bs) :
    c ∈ m ∨ (base ≤ c.1 ∧ c.1 < base + bs.length) := by
  by_cases hb : bs = []
  · left; simpa [memWrite, hb] using h
  · simp only [memWrite, hb, if_false, List.mem_append, List.mem_filter] at h
    rcases h with (h | h) | h
    · exact .inl h.1
    · exact .inr (mem_cellsFrom h)
    · exact .inl h.1

theorem mem_memErase {m : Memory} {base n : Nat} {c : Host.Cell} (h : c ∈ memErase m base n) : c ∈ m :=
  (List.mem_filter.1 h).1

/-- In canonical form a listed byte is the one read. -/
theorem memRead_of_mem {m : Memory} (h : m.wf) {a : Nat} {b : Byte} (hm : (a, b) ∈ m) : memRead m a = some b := by
  induction m with
  | nil => simp at hm
  | cons c m ih =>
    obtain ⟨x, y⟩ := c
    obtain ⟨hx, hm'⟩ := List.pairwise_cons.1 h
    simp only [List.mem_cons, Prod.mk.injEq] at hm
    rcases hm with ⟨rfl, rfl⟩ | hm
    · simp [memRead]
    · have := hx _ hm; simp only at this
      rw [memRead, if_neg (by omega)]; exact ih hm' hm

/-- Memories in canonical form that read alike are equal. -/
theorem memory_ext {m1 m2 : Memory} (h1 : m1.wf) (h2 : m2.wf) (h : ∀ a, memRead m1 a = memRead m2 a) : m1 = m2 := by
  have key : ∀ {m m' : Memory}, m.wf → (∀ a, memRead m a = memRead m' a) → ∀ c ∈ m, c ∈ m' := by
    intro m m' hm hr c hc
    have hc' := memRead_of_mem hm (a := c.1) (b := c.2) hc
    rw [hr] at hc'
    clear hc hr hm
    induction m' with
    | nil => simp at hc'
    | cons d m' ih =>
      obtain ⟨x, y⟩ := d
      by_cases hx : x = c.1
      · simp [memRead, hx] at hc'
        simp [hx, hc']
      · simp only [memRead, hx, if_false] at hc'
        exact List.mem_cons_of_mem _ (ih hc')
  have hs : ∀ {m : Memory}, m.wf → m.Pairwise (fun a b => a ≠ b) := fun hm => hm.imp (fun hlt heq => by subst heq; omega)
  refine List.Perm.eq_of_pairwise (le := fun a b : Host.Cell => a.1 < b.1) ?_ h1 h2 ?_
  · intro a b _ _ hab hba; omega
  · exact (List.perm_ext_iff_of_nodup (hs h1) (hs h2)).2 fun c => ⟨key h1 h c, key h2 (fun a => (h a).symm) c⟩

end Sys2Proof.Machine
end

