-- ==== Sys2Proof/Laws/PerInstr.lean ====
section
/-! SUPPORT. Statements about every instruction as syntax, one lemma per constructor. -/

namespace Sys2Proof.Laws.DecodeEncode

/-- Decoding the word of a well-formed command gives the command back (30_encoding.md R123, R125). -/
def Statement (i : Instr) : Prop := i.wf = true → decode (encode i) = i

theorem count : Statement .count := fun _ => by decide
theorem build : Statement .build := fun _ => by decide
theorem assign : Statement .assign := fun _ => by decide
theorem encode : Statement .encode := fun _ => by decide
theorem decode : Statement .decode := fun _ => by decide

theorem illegal (c : Word) : Statement (.illegal c) := by
  intro h
  simp only [Instr.wf, illegalWord, Bool.or_eq_true, bne_iff_ne, ne_eq, beq_iff_eq, decide_eq_true_eq] at h
  have hd : (rsvdField c = 0#24) → decodeOpc (opcField c) = none := by
    intro hr
    have h' : opcField c = 0#8 ∨ 6#8 ≤ opcField c := by
      rcases h with (h | h) | h
      · exact absurd hr h
      · exact .inl h
      · exact .inr h
    generalize opcField c = o at h'
    unfold decodeOpc
    rcases h' with h' | h'
    · subst h'; rfl
    · have hn : ∀ k : Byte, k < 6#8 → o ≠ k := fun k hk e => absurd hk (by subst e; exact BitVec.not_lt.2 h')
      simp [hn 1#8 (by decide), hn 2#8 (by decide), hn 3#8 (by decide), hn 4#8 (by decide), hn 5#8 (by decide)]
  by_cases hr : rsvdField c = 0#24
  · simp [Sys2Proof.encode, Sys2Proof.decode, hr, hd hr]
  · simp [Sys2Proof.encode, Sys2Proof.decode, hr]

end Sys2Proof.Laws.DecodeEncode
end

