-- ==== Sys2Proof/Laws/State.lean ====
section
/-! SUPPORT. One lemma per field per shared update of the state, so that no proof unfolds a record update. -/

namespace Sys2Proof.Machine

variable (s : State)

@[simp] theorem issue_params (c : Word) : (issue c s).params = s.params := rfl
@[simp] theorem issue_engine (c : Word) : (issue c s).engine = .busy c := rfl
@[simp] theorem issue_ie (c : Word) : (issue c s).ie = s.ie := rfl
@[simp] theorem issue_done (c : Word) : (issue c s).done = false := rfl
@[simp] theorem issue_wdrop (c : Word) : (issue c s).wdrop = s.wdrop := rfl
@[simp] theorem issue_treeValid (c : Word) : (issue c s).treeValid = s.treeValid := rfl
@[simp] theorem issue_codesValid (c : Word) : (issue c s).codesValid = s.codesValid := rfl
@[simp] theorem issue_err (c : Word) : (issue c s).err = none := rfl
@[simp] theorem issue_lastCmd (c : Word) : (issue c s).lastCmd = c := rfl
@[simp] theorem issue_errInfo (c : Word) : (issue c s).errInfo = 0 := rfl
@[simp] theorem issue_inLen (c : Word) : (issue c s).inLen = s.inLen := rfl
@[simp] theorem issue_bitLen (c : Word) : (issue c s).bitLen = s.bitLen := rfl
@[simp] theorem issue_outLen (c : Word) : (issue c s).outLen = s.outLen := rfl
@[simp] theorem issue_nleaf (c : Word) : (issue c s).nleaf = s.nleaf := rfl
@[simp] theorem issue_nnode (c : Word) : (issue c s).nnode = s.nnode := rfl
@[simp] theorem issue_root (c : Word) : (issue c s).root = s.root := rfl
@[simp] theorem issue_freq (c : Word) : (issue c s).freq = s.freq := rfl
@[simp] theorem issue_arena (c : Word) : (issue c s).arena = s.arena := rfl
@[simp] theorem issue_codes (c : Word) : (issue c s).codes = s.codes := rfl
@[simp] theorem issue_mem (c : Word) : (issue c s).mem = s.mem := rfl
@[simp] theorem issue_symBg (c : Word) : (issue c s).symBg = s.symBg := rfl
@[simp] theorem issue_bitBg (c : Word) : (issue c s).bitBg = s.bitBg := rfl
@[simp] theorem issue_outBg (c : Word) : (issue c s).outBg = s.outBg := rfl
@[simp] theorem issue_inputs (c : Word) : (issue c s).inputs = s.inputs := rfl
@[simp] theorem issue_rdata (c : Word) : (issue c s).rdata = s.rdata := rfl
@[simp] theorem issue_draws (c : Word) : (issue c s).draws = s.draws := rfl

@[simp] theorem complete_params (r : Option Raise) : (complete r s).params = s.params := rfl
@[simp] theorem complete_engine (r : Option Raise) : (complete r s).engine = .idle := rfl
@[simp] theorem complete_ie (r : Option Raise) : (complete r s).ie = s.ie := rfl
@[simp] theorem complete_done (r : Option Raise) : (complete r s).done = true := rfl
@[simp] theorem complete_wdrop (r : Option Raise) : (complete r s).wdrop = s.wdrop := rfl
@[simp] theorem complete_treeValid (r : Option Raise) : (complete r s).treeValid = s.treeValid := rfl
@[simp] theorem complete_codesValid (r : Option Raise) : (complete r s).codesValid = s.codesValid := rfl
@[simp] theorem complete_err (r : Option Raise) : (complete r s).err = r.map Raise.kind := rfl
@[simp] theorem complete_lastCmd (r : Option Raise) : (complete r s).lastCmd = s.lastCmd := rfl
@[simp] theorem complete_errInfo (r : Option Raise) : (complete r s).errInfo = (r.map Raise.info).getD 0 := rfl
@[simp] theorem complete_inLen (r : Option Raise) : (complete r s).inLen = s.inLen := rfl
@[simp] theorem complete_bitLen (r : Option Raise) : (complete r s).bitLen = s.bitLen := rfl
@[simp] theorem complete_outLen (r : Option Raise) : (complete r s).outLen = s.outLen := rfl
@[simp] theorem complete_nleaf (r : Option Raise) : (complete r s).nleaf = s.nleaf := rfl
@[simp] theorem complete_nnode (r : Option Raise) : (complete r s).nnode = s.nnode := rfl
@[simp] theorem complete_root (r : Option Raise) : (complete r s).root = s.root := rfl
@[simp] theorem complete_freq (r : Option Raise) : (complete r s).freq = s.freq := rfl
@[simp] theorem complete_arena (r : Option Raise) : (complete r s).arena = s.arena := rfl
@[simp] theorem complete_codes (r : Option Raise) : (complete r s).codes = s.codes := rfl
@[simp] theorem complete_mem (r : Option Raise) : (complete r s).mem = s.mem := rfl
@[simp] theorem complete_symBg (r : Option Raise) : (complete r s).symBg = s.symBg := rfl
@[simp] theorem complete_bitBg (r : Option Raise) : (complete r s).bitBg = s.bitBg := rfl
@[simp] theorem complete_outBg (r : Option Raise) : (complete r s).outBg = s.outBg := rfl
@[simp] theorem complete_inputs (r : Option Raise) : (complete r s).inputs = s.inputs := rfl
@[simp] theorem complete_rdata (r : Option Raise) : (complete r s).rdata = s.rdata := rfl
@[simp] theorem complete_draws (r : Option Raise) : (complete r s).draws = s.draws := rfl

@[simp] theorem writeStatus_params (v : Word) : (writeStatus v s).params = s.params := rfl
@[simp] theorem writeStatus_engine (v : Word) : (writeStatus v s).engine = s.engine := rfl
@[simp] theorem writeStatus_ie (v : Word) : (writeStatus v s).ie = s.ie := rfl
@[simp] theorem writeStatus_done (v : Word) : (writeStatus v s).done = (s.done && !v.getLsbD 1) := rfl
@[simp] theorem writeStatus_wdrop (v : Word) : (writeStatus v s).wdrop = (s.wdrop && !v.getLsbD 3) := rfl
@[simp] theorem writeStatus_treeValid (v : Word) : (writeStatus v s).treeValid = s.treeValid := rfl
@[simp] theorem writeStatus_codesValid (v : Word) : (writeStatus v s).codesValid = s.codesValid := rfl
@[simp] theorem writeStatus_err (v : Word) : (writeStatus v s).err = s.err := rfl
@[simp] theorem writeStatus_lastCmd (v : Word) : (writeStatus v s).lastCmd = s.lastCmd := rfl
@[simp] theorem writeStatus_errInfo (v : Word) : (writeStatus v s).errInfo = s.errInfo := rfl
@[simp] theorem writeStatus_inLen (v : Word) : (writeStatus v s).inLen = s.inLen := rfl
@[simp] theorem writeStatus_bitLen (v : Word) : (writeStatus v s).bitLen = s.bitLen := rfl
@[simp] theorem writeStatus_outLen (v : Word) : (writeStatus v s).outLen = s.outLen := rfl
@[simp] theorem writeStatus_nleaf (v : Word) : (writeStatus v s).nleaf = s.nleaf := rfl
@[simp] theorem writeStatus_nnode (v : Word) : (writeStatus v s).nnode = s.nnode := rfl
@[simp] theorem writeStatus_root (v : Word) : (writeStatus v s).root = s.root := rfl
@[simp] theorem writeStatus_freq (v : Word) : (writeStatus v s).freq = s.freq := rfl
@[simp] theorem writeStatus_arena (v : Word) : (writeStatus v s).arena = s.arena := rfl
@[simp] theorem writeStatus_codes (v : Word) : (writeStatus v s).codes = s.codes := rfl
@[simp] theorem writeStatus_mem (v : Word) : (writeStatus v s).mem = s.mem := rfl
@[simp] theorem writeStatus_symBg (v : Word) : (writeStatus v s).symBg = s.symBg := rfl
@[simp] theorem writeStatus_bitBg (v : Word) : (writeStatus v s).bitBg = s.bitBg := rfl
@[simp] theorem writeStatus_outBg (v : Word) : (writeStatus v s).outBg = s.outBg := rfl
@[simp] theorem writeStatus_inputs (v : Word) : (writeStatus v s).inputs = s.inputs := rfl
@[simp] theorem writeStatus_rdata (v : Word) : (writeStatus v s).rdata = s.rdata := rfl
@[simp] theorem writeStatus_draws (v : Word) : (writeStatus v s).draws = s.draws := rfl

@[simp] theorem invalidate_params : (invalidate s).params = s.params := rfl
@[simp] theorem invalidate_engine : (invalidate s).engine = s.engine := rfl
@[simp] theorem invalidate_ie : (invalidate s).ie = s.ie := rfl
@[simp] theorem invalidate_done : (invalidate s).done = s.done := rfl
@[simp] theorem invalidate_wdrop : (invalidate s).wdrop = s.wdrop := rfl
@[simp] theorem invalidate_treeValid : (invalidate s).treeValid = false := rfl
@[simp] theorem invalidate_codesValid : (invalidate s).codesValid = false := rfl
@[simp] theorem invalidate_err : (invalidate s).err = s.err := rfl
@[simp] theorem invalidate_lastCmd : (invalidate s).lastCmd = s.lastCmd := rfl
@[simp] theorem invalidate_errInfo : (invalidate s).errInfo = s.errInfo := rfl
@[simp] theorem invalidate_inLen : (invalidate s).inLen = s.inLen := rfl
@[simp] theorem invalidate_bitLen : (invalidate s).bitLen = s.bitLen := rfl
@[simp] theorem invalidate_outLen : (invalidate s).outLen = s.outLen := rfl
@[simp] theorem invalidate_nleaf : (invalidate s).nleaf = s.nleaf := rfl
@[simp] theorem invalidate_nnode : (invalidate s).nnode = s.nnode := rfl
@[simp] theorem invalidate_root : (invalidate s).root = s.root := rfl
@[simp] theorem invalidate_freq : (invalidate s).freq = s.freq := rfl
@[simp] theorem invalidate_arena : (invalidate s).arena = s.arena := rfl
@[simp] theorem invalidate_codes : (invalidate s).codes = s.codes := rfl
@[simp] theorem invalidate_mem : (invalidate s).mem = s.mem := rfl
@[simp] theorem invalidate_symBg : (invalidate s).symBg = s.symBg := rfl
@[simp] theorem invalidate_bitBg : (invalidate s).bitBg = s.bitBg := rfl
@[simp] theorem invalidate_outBg : (invalidate s).outBg = s.outBg := rfl
@[simp] theorem invalidate_inputs : (invalidate s).inputs = s.inputs := rfl
@[simp] theorem invalidate_rdata : (invalidate s).rdata = s.rdata := rfl
@[simp] theorem invalidate_draws : (invalidate s).draws = s.draws := rfl

@[simp] theorem dropWrite_params : (dropWrite s).params = s.params := rfl
@[simp] theorem dropWrite_engine : (dropWrite s).engine = s.engine := rfl
@[simp] theorem dropWrite_ie : (dropWrite s).ie = s.ie := rfl
@[simp] theorem dropWrite_done : (dropWrite s).done = s.done := rfl
@[simp] theorem dropWrite_wdrop : (dropWrite s).wdrop = true := rfl
@[simp] theorem dropWrite_treeValid : (dropWrite s).treeValid = s.treeValid := rfl
@[simp] theorem dropWrite_codesValid : (dropWrite s).codesValid = s.codesValid := rfl
@[simp] theorem dropWrite_err : (dropWrite s).err = s.err := rfl
@[simp] theorem dropWrite_lastCmd : (dropWrite s).lastCmd = s.lastCmd := rfl
@[simp] theorem dropWrite_errInfo : (dropWrite s).errInfo = s.errInfo := rfl
@[simp] theorem dropWrite_inLen : (dropWrite s).inLen = s.inLen := rfl
@[simp] theorem dropWrite_bitLen : (dropWrite s).bitLen = s.bitLen := rfl
@[simp] theorem dropWrite_outLen : (dropWrite s).outLen = s.outLen := rfl
@[simp] theorem dropWrite_nleaf : (dropWrite s).nleaf = s.nleaf := rfl
@[simp] theorem dropWrite_nnode : (dropWrite s).nnode = s.nnode := rfl
@[simp] theorem dropWrite_root : (dropWrite s).root = s.root := rfl
@[simp] theorem dropWrite_freq : (dropWrite s).freq = s.freq := rfl
@[simp] theorem dropWrite_arena : (dropWrite s).arena = s.arena := rfl
@[simp] theorem dropWrite_codes : (dropWrite s).codes = s.codes := rfl
@[simp] theorem dropWrite_mem : (dropWrite s).mem = s.mem := rfl
@[simp] theorem dropWrite_symBg : (dropWrite s).symBg = s.symBg := rfl
@[simp] theorem dropWrite_bitBg : (dropWrite s).bitBg = s.bitBg := rfl
@[simp] theorem dropWrite_outBg : (dropWrite s).outBg = s.outBg := rfl
@[simp] theorem dropWrite_inputs : (dropWrite s).inputs = s.inputs := rfl
@[simp] theorem dropWrite_rdata : (dropWrite s).rdata = s.rdata := rfl
@[simp] theorem dropWrite_draws : (dropWrite s).draws = s.draws := rfl

@[simp] theorem setTree_params (t : Tree) : (setTree t s).params = s.params := rfl
@[simp] theorem setTree_engine (t : Tree) : (setTree t s).engine = s.engine := rfl
@[simp] theorem setTree_ie (t : Tree) : (setTree t s).ie = s.ie := rfl
@[simp] theorem setTree_done (t : Tree) : (setTree t s).done = s.done := rfl
@[simp] theorem setTree_wdrop (t : Tree) : (setTree t s).wdrop = s.wdrop := rfl
@[simp] theorem setTree_treeValid (t : Tree) : (setTree t s).treeValid = s.treeValid := rfl
@[simp] theorem setTree_codesValid (t : Tree) : (setTree t s).codesValid = s.codesValid := rfl
@[simp] theorem setTree_err (t : Tree) : (setTree t s).err = s.err := rfl
@[simp] theorem setTree_lastCmd (t : Tree) : (setTree t s).lastCmd = s.lastCmd := rfl
@[simp] theorem setTree_errInfo (t : Tree) : (setTree t s).errInfo = s.errInfo := rfl
@[simp] theorem setTree_inLen (t : Tree) : (setTree t s).inLen = s.inLen := rfl
@[simp] theorem setTree_bitLen (t : Tree) : (setTree t s).bitLen = s.bitLen := rfl
@[simp] theorem setTree_outLen (t : Tree) : (setTree t s).outLen = s.outLen := rfl
@[simp] theorem setTree_nleaf (t : Tree) : (setTree t s).nleaf = t.nleaf := rfl
@[simp] theorem setTree_nnode (t : Tree) : (setTree t s).nnode = t.nnode := rfl
@[simp] theorem setTree_root (t : Tree) : (setTree t s).root = t.root := rfl
@[simp] theorem setTree_freq (t : Tree) : (setTree t s).freq = s.freq := rfl
@[simp] theorem setTree_arena (t : Tree) : (setTree t s).arena = t.arena := rfl
@[simp] theorem setTree_codes (t : Tree) : (setTree t s).codes = s.codes := rfl
@[simp] theorem setTree_mem (t : Tree) : (setTree t s).mem = s.mem := rfl
@[simp] theorem setTree_symBg (t : Tree) : (setTree t s).symBg = s.symBg := rfl
@[simp] theorem setTree_bitBg (t : Tree) : (setTree t s).bitBg = s.bitBg := rfl
@[simp] theorem setTree_outBg (t : Tree) : (setTree t s).outBg = s.outBg := rfl
@[simp] theorem setTree_inputs (t : Tree) : (setTree t s).inputs = s.inputs := rfl
@[simp] theorem setTree_rdata (t : Tree) : (setTree t s).rdata = s.rdata := rfl
@[simp] theorem setTree_draws (t : Tree) : (setTree t s).draws = s.draws := rfl

@[simp] theorem takeDraw_params : (takeDraw s).params = s.params := rfl
@[simp] theorem takeDraw_engine : (takeDraw s).engine = s.engine := rfl
@[simp] theorem takeDraw_ie : (takeDraw s).ie = s.ie := rfl
@[simp] theorem takeDraw_done : (takeDraw s).done = s.done := rfl
@[simp] theorem takeDraw_wdrop : (takeDraw s).wdrop = s.wdrop := rfl
@[simp] theorem takeDraw_treeValid : (takeDraw s).treeValid = s.treeValid := rfl
@[simp] theorem takeDraw_codesValid : (takeDraw s).codesValid = s.codesValid := rfl
@[simp] theorem takeDraw_err : (takeDraw s).err = s.err := rfl
@[simp] theorem takeDraw_lastCmd : (takeDraw s).lastCmd = s.lastCmd := rfl
@[simp] theorem takeDraw_errInfo : (takeDraw s).errInfo = s.errInfo := rfl
@[simp] theorem takeDraw_inLen : (takeDraw s).inLen = s.inLen := rfl
@[simp] theorem takeDraw_bitLen : (takeDraw s).bitLen = s.bitLen := rfl
@[simp] theorem takeDraw_outLen : (takeDraw s).outLen = s.outLen := rfl
@[simp] theorem takeDraw_nleaf : (takeDraw s).nleaf = s.nleaf := rfl
@[simp] theorem takeDraw_nnode : (takeDraw s).nnode = s.nnode := rfl
@[simp] theorem takeDraw_root : (takeDraw s).root = s.root := rfl
@[simp] theorem takeDraw_freq : (takeDraw s).freq = s.freq := rfl
@[simp] theorem takeDraw_arena : (takeDraw s).arena = s.arena := rfl
@[simp] theorem takeDraw_codes : (takeDraw s).codes = s.codes := rfl
@[simp] theorem takeDraw_mem : (takeDraw s).mem = s.mem := rfl
@[simp] theorem takeDraw_symBg : (takeDraw s).symBg = s.symBg := rfl
@[simp] theorem takeDraw_bitBg : (takeDraw s).bitBg = s.bitBg := rfl
@[simp] theorem takeDraw_outBg : (takeDraw s).outBg = s.outBg := rfl
@[simp] theorem takeDraw_inputs : (takeDraw s).inputs = s.inputs := rfl
@[simp] theorem takeDraw_rdata : (takeDraw s).rdata = s.rdata := rfl
@[simp] theorem takeDraw_draws : (takeDraw s).draws = s.draws + 1 := rfl

@[simp] theorem validateTree_params : (validateTree s).params = s.params := rfl
@[simp] theorem validateTree_engine : (validateTree s).engine = s.engine := rfl
@[simp] theorem validateTree_ie : (validateTree s).ie = s.ie := rfl
@[simp] theorem validateTree_done : (validateTree s).done = s.done := rfl
@[simp] theorem validateTree_wdrop : (validateTree s).wdrop = s.wdrop := rfl
@[simp] theorem validateTree_treeValid : (validateTree s).treeValid = true := rfl
@[simp] theorem validateTree_codesValid : (validateTree s).codesValid = s.codesValid := rfl
@[simp] theorem validateTree_err : (validateTree s).err = s.err := rfl
@[simp] theorem validateTree_lastCmd : (validateTree s).lastCmd = s.lastCmd := rfl
@[simp] theorem validateTree_errInfo : (validateTree s).errInfo = s.errInfo := rfl
@[simp] theorem validateTree_inLen : (validateTree s).inLen = s.inLen := rfl
@[simp] theorem validateTree_bitLen : (validateTree s).bitLen = s.bitLen := rfl
@[simp] theorem validateTree_outLen : (validateTree s).outLen = s.outLen := rfl
@[simp] theorem validateTree_nleaf : (validateTree s).nleaf = s.nleaf := rfl
@[simp] theorem validateTree_nnode : (validateTree s).nnode = s.nnode := rfl
@[simp] theorem validateTree_root : (validateTree s).root = s.root := rfl
@[simp] theorem validateTree_freq : (validateTree s).freq = s.freq := rfl
@[simp] theorem validateTree_arena : (validateTree s).arena = s.arena := rfl
@[simp] theorem validateTree_codes : (validateTree s).codes = s.codes := rfl
@[simp] theorem validateTree_mem : (validateTree s).mem = s.mem := rfl
@[simp] theorem validateTree_symBg : (validateTree s).symBg = s.symBg := rfl
@[simp] theorem validateTree_bitBg : (validateTree s).bitBg = s.bitBg := rfl
@[simp] theorem validateTree_outBg : (validateTree s).outBg = s.outBg := rfl
@[simp] theorem validateTree_inputs : (validateTree s).inputs = s.inputs := rfl
@[simp] theorem validateTree_rdata : (validateTree s).rdata = s.rdata := rfl
@[simp] theorem validateTree_draws : (validateTree s).draws = s.draws := rfl

@[simp] theorem setIe_params (b : Bool) : (setIe b s).params = s.params := rfl
@[simp] theorem setIe_engine (b : Bool) : (setIe b s).engine = s.engine := rfl
@[simp] theorem setIe_ie (b : Bool) : (setIe b s).ie = b := rfl
@[simp] theorem setIe_done (b : Bool) : (setIe b s).done = s.done := rfl
@[simp] theorem setIe_wdrop (b : Bool) : (setIe b s).wdrop = s.wdrop := rfl
@[simp] theorem setIe_treeValid (b : Bool) : (setIe b s).treeValid = s.treeValid := rfl
@[simp] theorem setIe_codesValid (b : Bool) : (setIe b s).codesValid = s.codesValid := rfl
@[simp] theorem setIe_err (b : Bool) : (setIe b s).err = s.err := rfl
@[simp] theorem setIe_lastCmd (b : Bool) : (setIe b s).lastCmd = s.lastCmd := rfl
@[simp] theorem setIe_errInfo (b : Bool) : (setIe b s).errInfo = s.errInfo := rfl
@[simp] theorem setIe_inLen (b : Bool) : (setIe b s).inLen = s.inLen := rfl
@[simp] theorem setIe_bitLen (b : Bool) : (setIe b s).bitLen = s.bitLen := rfl
@[simp] theorem setIe_outLen (b : Bool) : (setIe b s).outLen = s.outLen := rfl
@[simp] theorem setIe_nleaf (b : Bool) : (setIe b s).nleaf = s.nleaf := rfl
@[simp] theorem setIe_nnode (b : Bool) : (setIe b s).nnode = s.nnode := rfl
@[simp] theorem setIe_root (b : Bool) : (setIe b s).root = s.root := rfl
@[simp] theorem setIe_freq (b : Bool) : (setIe b s).freq = s.freq := rfl
@[simp] theorem setIe_arena (b : Bool) : (setIe b s).arena = s.arena := rfl
@[simp] theorem setIe_codes (b : Bool) : (setIe b s).codes = s.codes := rfl
@[simp] theorem setIe_mem (b : Bool) : (setIe b s).mem = s.mem := rfl
@[simp] theorem setIe_symBg (b : Bool) : (setIe b s).symBg = s.symBg := rfl
@[simp] theorem setIe_bitBg (b : Bool) : (setIe b s).bitBg = s.bitBg := rfl
@[simp] theorem setIe_outBg (b : Bool) : (setIe b s).outBg = s.outBg := rfl
@[simp] theorem setIe_inputs (b : Bool) : (setIe b s).inputs = s.inputs := rfl
@[simp] theorem setIe_rdata (b : Bool) : (setIe b s).rdata = s.rdata := rfl
@[simp] theorem setIe_draws (b : Bool) : (setIe b s).draws = s.draws := rfl

@[simp] theorem setInLen_params (v : Word) : (setInLen v s).params = s.params := rfl
@[simp] theorem setInLen_engine (v : Word) : (setInLen v s).engine = s.engine := rfl
@[simp] theorem setInLen_ie (v : Word) : (setInLen v s).ie = s.ie := rfl
@[simp] theorem setInLen_done (v : Word) : (setInLen v s).done = s.done := rfl
@[simp] theorem setInLen_wdrop (v : Word) : (setInLen v s).wdrop = s.wdrop := rfl
@[simp] theorem setInLen_treeValid (v : Word) : (setInLen v s).treeValid = s.treeValid := rfl
@[simp] theorem setInLen_codesValid (v : Word) : (setInLen v s).codesValid = s.codesValid := rfl
@[simp] theorem setInLen_err (v : Word) : (setInLen v s).err = s.err := rfl
@[simp] theorem setInLen_lastCmd (v : Word) : (setInLen v s).lastCmd = s.lastCmd := rfl
@[simp] theorem setInLen_errInfo (v : Word) : (setInLen v s).errInfo = s.errInfo := rfl
@[simp] theorem setInLen_inLen (v : Word) : (setInLen v s).inLen = v := rfl
@[simp] theorem setInLen_bitLen (v : Word) : (setInLen v s).bitLen = s.bitLen := rfl
@[simp] theorem setInLen_outLen (v : Word) : (setInLen v s).outLen = s.outLen := rfl
@[simp] theorem setInLen_nleaf (v : Word) : (setInLen v s).nleaf = s.nleaf := rfl
@[simp] theorem setInLen_nnode (v : Word) : (setInLen v s).nnode = s.nnode := rfl
@[simp] theorem setInLen_root (v : Word) : (setInLen v s).root = s.root := rfl
@[simp] theorem setInLen_freq (v : Word) : (setInLen v s).freq = s.freq := rfl
@[simp] theorem setInLen_arena (v : Word) : (setInLen v s).arena = s.arena := rfl
@[simp] theorem setInLen_codes (v : Word) : (setInLen v s).codes = s.codes := rfl
@[simp] theorem setInLen_mem (v : Word) : (setInLen v s).mem = s.mem := rfl
@[simp] theorem setInLen_symBg (v : Word) : (setInLen v s).symBg = s.symBg := rfl
@[simp] theorem setInLen_bitBg (v : Word) : (setInLen v s).bitBg = s.bitBg := rfl
@[simp] theorem setInLen_outBg (v : Word) : (setInLen v s).outBg = s.outBg := rfl
@[simp] theorem setInLen_inputs (v : Word) : (setInLen v s).inputs = s.inputs := rfl
@[simp] theorem setInLen_rdata (v : Word) : (setInLen v s).rdata = s.rdata := rfl
@[simp] theorem setInLen_draws (v : Word) : (setInLen v s).draws = s.draws := rfl

@[simp] theorem setBitLen_params (v : Word) : (setBitLen v s).params = s.params := rfl
@[simp] theorem setBitLen_engine (v : Word) : (setBitLen v s).engine = s.engine := rfl
@[simp] theorem setBitLen_ie (v : Word) : (setBitLen v s).ie = s.ie := rfl
@[simp] theorem setBitLen_done (v : Word) : (setBitLen v s).done = s.done := rfl
@[simp] theorem setBitLen_wdrop (v : Word) : (setBitLen v s).wdrop = s.wdrop := rfl
@[simp] theorem setBitLen_treeValid (v : Word) : (setBitLen v s).treeValid = s.treeValid := rfl
@[simp] theorem setBitLen_codesValid (v : Word) : (setBitLen v s).codesValid = s.codesValid := rfl
@[simp] theorem setBitLen_err (v : Word) : (setBitLen v s).err = s.err := rfl
@[simp] theorem setBitLen_lastCmd (v : Word) : (setBitLen v s).lastCmd = s.lastCmd := rfl
@[simp] theorem setBitLen_errInfo (v : Word) : (setBitLen v s).errInfo = s.errInfo := rfl
@[simp] theorem setBitLen_inLen (v : Word) : (setBitLen v s).inLen = s.inLen := rfl
@[simp] theorem setBitLen_bitLen (v : Word) : (setBitLen v s).bitLen = v := rfl
@[simp] theorem setBitLen_outLen (v : Word) : (setBitLen v s).outLen = s.outLen := rfl
@[simp] theorem setBitLen_nleaf (v : Word) : (setBitLen v s).nleaf = s.nleaf := rfl
@[simp] theorem setBitLen_nnode (v : Word) : (setBitLen v s).nnode = s.nnode := rfl
@[simp] theorem setBitLen_root (v : Word) : (setBitLen v s).root = s.root := rfl
@[simp] theorem setBitLen_freq (v : Word) : (setBitLen v s).freq = s.freq := rfl
@[simp] theorem setBitLen_arena (v : Word) : (setBitLen v s).arena = s.arena := rfl
@[simp] theorem setBitLen_codes (v : Word) : (setBitLen v s).codes = s.codes := rfl
@[simp] theorem setBitLen_mem (v : Word) : (setBitLen v s).mem = s.mem := rfl
@[simp] theorem setBitLen_symBg (v : Word) : (setBitLen v s).symBg = s.symBg := rfl
@[simp] theorem setBitLen_bitBg (v : Word) : (setBitLen v s).bitBg = s.bitBg := rfl
@[simp] theorem setBitLen_outBg (v : Word) : (setBitLen v s).outBg = s.outBg := rfl
@[simp] theorem setBitLen_inputs (v : Word) : (setBitLen v s).inputs = s.inputs := rfl
@[simp] theorem setBitLen_rdata (v : Word) : (setBitLen v s).rdata = s.rdata := rfl
@[simp] theorem setBitLen_draws (v : Word) : (setBitLen v s).draws = s.draws := rfl

@[simp] theorem setFreq_params (f : Vector Word 256) : (setFreq f s).params = s.params := rfl
@[simp] theorem setFreq_engine (f : Vector Word 256) : (setFreq f s).engine = s.engine := rfl
@[simp] theorem setFreq_ie (f : Vector Word 256) : (setFreq f s).ie = s.ie := rfl
@[simp] theorem setFreq_done (f : Vector Word 256) : (setFreq f s).done = s.done := rfl
@[simp] theorem setFreq_wdrop (f : Vector Word 256) : (setFreq f s).wdrop = s.wdrop := rfl
@[simp] theorem setFreq_treeValid (f : Vector Word 256) : (setFreq f s).treeValid = s.treeValid := rfl
@[simp] theorem setFreq_codesValid (f : Vector Word 256) : (setFreq f s).codesValid = s.codesValid := rfl
@[simp] theorem setFreq_err (f : Vector Word 256) : (setFreq f s).err = s.err := rfl
@[simp] theorem setFreq_lastCmd (f : Vector Word 256) : (setFreq f s).lastCmd = s.lastCmd := rfl
@[simp] theorem setFreq_errInfo (f : Vector Word 256) : (setFreq f s).errInfo = s.errInfo := rfl
@[simp] theorem setFreq_inLen (f : Vector Word 256) : (setFreq f s).inLen = s.inLen := rfl
@[simp] theorem setFreq_bitLen (f : Vector Word 256) : (setFreq f s).bitLen = s.bitLen := rfl
@[simp] theorem setFreq_outLen (f : Vector Word 256) : (setFreq f s).outLen = s.outLen := rfl
@[simp] theorem setFreq_nleaf (f : Vector Word 256) : (setFreq f s).nleaf = s.nleaf := rfl
@[simp] theorem setFreq_nnode (f : Vector Word 256) : (setFreq f s).nnode = s.nnode := rfl
@[simp] theorem setFreq_root (f : Vector Word 256) : (setFreq f s).root = s.root := rfl
@[simp] theorem setFreq_freq (f : Vector Word 256) : (setFreq f s).freq = f := rfl
@[simp] theorem setFreq_arena (f : Vector Word 256) : (setFreq f s).arena = s.arena := rfl
@[simp] theorem setFreq_codes (f : Vector Word 256) : (setFreq f s).codes = s.codes := rfl
@[simp] theorem setFreq_mem (f : Vector Word 256) : (setFreq f s).mem = s.mem := rfl
@[simp] theorem setFreq_symBg (f : Vector Word 256) : (setFreq f s).symBg = s.symBg := rfl
@[simp] theorem setFreq_bitBg (f : Vector Word 256) : (setFreq f s).bitBg = s.bitBg := rfl
@[simp] theorem setFreq_outBg (f : Vector Word 256) : (setFreq f s).outBg = s.outBg := rfl
@[simp] theorem setFreq_inputs (f : Vector Word 256) : (setFreq f s).inputs = s.inputs := rfl
@[simp] theorem setFreq_rdata (f : Vector Word 256) : (setFreq f s).rdata = s.rdata := rfl
@[simp] theorem setFreq_draws (f : Vector Word 256) : (setFreq f s).draws = s.draws := rfl

@[simp] theorem setCodes_params (c : Vector CodeEntry 256) : (setCodes c s).params = s.params := rfl
@[simp] theorem setCodes_engine (c : Vector CodeEntry 256) : (setCodes c s).engine = s.engine := rfl
@[simp] theorem setCodes_ie (c : Vector CodeEntry 256) : (setCodes c s).ie = s.ie := rfl
@[simp] theorem setCodes_done (c : Vector CodeEntry 256) : (setCodes c s).done = s.done := rfl
@[simp] theorem setCodes_wdrop (c : Vector CodeEntry 256) : (setCodes c s).wdrop = s.wdrop := rfl
@[simp] theorem setCodes_treeValid (c : Vector CodeEntry 256) : (setCodes c s).treeValid = s.treeValid := rfl
@[simp] theorem setCodes_codesValid (c : Vector CodeEntry 256) : (setCodes c s).codesValid = true := rfl
@[simp] theorem setCodes_err (c : Vector CodeEntry 256) : (setCodes c s).err = s.err := rfl
@[simp] theorem setCodes_lastCmd (c : Vector CodeEntry 256) : (setCodes c s).lastCmd = s.lastCmd := rfl
@[simp] theorem setCodes_errInfo (c : Vector CodeEntry 256) : (setCodes c s).errInfo = s.errInfo := rfl
@[simp] theorem setCodes_inLen (c : Vector CodeEntry 256) : (setCodes c s).inLen = s.inLen := rfl
@[simp] theorem setCodes_bitLen (c : Vector CodeEntry 256) : (setCodes c s).bitLen = s.bitLen := rfl
@[simp] theorem setCodes_outLen (c : Vector CodeEntry 256) : (setCodes c s).outLen = s.outLen := rfl
@[simp] theorem setCodes_nleaf (c : Vector CodeEntry 256) : (setCodes c s).nleaf = s.nleaf := rfl
@[simp] theorem setCodes_nnode (c : Vector CodeEntry 256) : (setCodes c s).nnode = s.nnode := rfl
@[simp] theorem setCodes_root (c : Vector CodeEntry 256) : (setCodes c s).root = s.root := rfl
@[simp] theorem setCodes_freq (c : Vector CodeEntry 256) : (setCodes c s).freq = s.freq := rfl
@[simp] theorem setCodes_arena (c : Vector CodeEntry 256) : (setCodes c s).arena = s.arena := rfl
@[simp] theorem setCodes_codes (c : Vector CodeEntry 256) : (setCodes c s).codes = c := rfl
@[simp] theorem setCodes_mem (c : Vector CodeEntry 256) : (setCodes c s).mem = s.mem := rfl
@[simp] theorem setCodes_symBg (c : Vector CodeEntry 256) : (setCodes c s).symBg = s.symBg := rfl
@[simp] theorem setCodes_bitBg (c : Vector CodeEntry 256) : (setCodes c s).bitBg = s.bitBg := rfl
@[simp] theorem setCodes_outBg (c : Vector CodeEntry 256) : (setCodes c s).outBg = s.outBg := rfl
@[simp] theorem setCodes_inputs (c : Vector CodeEntry 256) : (setCodes c s).inputs = s.inputs := rfl
@[simp] theorem setCodes_rdata (c : Vector CodeEntry 256) : (setCodes c s).rdata = s.rdata := rfl
@[simp] theorem setCodes_draws (c : Vector CodeEntry 256) : (setCodes c s).draws = s.draws := rfl

@[simp] theorem setInputs_params (q : List Event) : (setInputs q s).params = s.params := rfl
@[simp] theorem setInputs_engine (q : List Event) : (setInputs q s).engine = s.engine := rfl
@[simp] theorem setInputs_ie (q : List Event) : (setInputs q s).ie = s.ie := rfl
@[simp] theorem setInputs_done (q : List Event) : (setInputs q s).done = s.done := rfl
@[simp] theorem setInputs_wdrop (q : List Event) : (setInputs q s).wdrop = s.wdrop := rfl
@[simp] theorem setInputs_treeValid (q : List Event) : (setInputs q s).treeValid = s.treeValid := rfl
@[simp] theorem setInputs_codesValid (q : List Event) : (setInputs q s).codesValid = s.codesValid := rfl
@[simp] theorem setInputs_err (q : List Event) : (setInputs q s).err = s.err := rfl
@[simp] theorem setInputs_lastCmd (q : List Event) : (setInputs q s).lastCmd = s.lastCmd := rfl
@[simp] theorem setInputs_errInfo (q : List Event) : (setInputs q s).errInfo = s.errInfo := rfl
@[simp] theorem setInputs_inLen (q : List Event) : (setInputs q s).inLen = s.inLen := rfl
@[simp] theorem setInputs_bitLen (q : List Event) : (setInputs q s).bitLen = s.bitLen := rfl
@[simp] theorem setInputs_outLen (q : List Event) : (setInputs q s).outLen = s.outLen := rfl
@[simp] theorem setInputs_nleaf (q : List Event) : (setInputs q s).nleaf = s.nleaf := rfl
@[simp] theorem setInputs_nnode (q : List Event) : (setInputs q s).nnode = s.nnode := rfl
@[simp] theorem setInputs_root (q : List Event) : (setInputs q s).root = s.root := rfl
@[simp] theorem setInputs_freq (q : List Event) : (setInputs q s).freq = s.freq := rfl
@[simp] theorem setInputs_arena (q : List Event) : (setInputs q s).arena = s.arena := rfl
@[simp] theorem setInputs_codes (q : List Event) : (setInputs q s).codes = s.codes := rfl
@[simp] theorem setInputs_mem (q : List Event) : (setInputs q s).mem = s.mem := rfl
@[simp] theorem setInputs_symBg (q : List Event) : (setInputs q s).symBg = s.symBg := rfl
@[simp] theorem setInputs_bitBg (q : List Event) : (setInputs q s).bitBg = s.bitBg := rfl
@[simp] theorem setInputs_outBg (q : List Event) : (setInputs q s).outBg = s.outBg := rfl
@[simp] theorem setInputs_inputs (q : List Event) : (setInputs q s).inputs = q := rfl
@[simp] theorem setInputs_rdata (q : List Event) : (setInputs q s).rdata = s.rdata := rfl
@[simp] theorem setInputs_draws (q : List Event) : (setInputs q s).draws = s.draws := rfl

@[simp] theorem storeStream_params (out : List Bool) : (storeStream out s).params = s.params := rfl
@[simp] theorem storeStream_engine (out : List Bool) : (storeStream out s).engine = s.engine := rfl
@[simp] theorem storeStream_ie (out : List Bool) : (storeStream out s).ie = s.ie := rfl
@[simp] theorem storeStream_done (out : List Bool) : (storeStream out s).done = s.done := rfl
@[simp] theorem storeStream_wdrop (out : List Bool) : (storeStream out s).wdrop = s.wdrop := rfl
@[simp] theorem storeStream_treeValid (out : List Bool) : (storeStream out s).treeValid = s.treeValid := rfl
@[simp] theorem storeStream_codesValid (out : List Bool) : (storeStream out s).codesValid = s.codesValid := rfl
@[simp] theorem storeStream_err (out : List Bool) : (storeStream out s).err = s.err := rfl
@[simp] theorem storeStream_lastCmd (out : List Bool) : (storeStream out s).lastCmd = s.lastCmd := rfl
@[simp] theorem storeStream_errInfo (out : List Bool) : (storeStream out s).errInfo = s.errInfo := rfl
@[simp] theorem storeStream_inLen (out : List Bool) : (storeStream out s).inLen = s.inLen := rfl
@[simp] theorem storeStream_bitLen (out : List Bool) : (storeStream out s).bitLen = BitVec.ofNat 32 out.length := rfl
@[simp] theorem storeStream_outLen (out : List Bool) : (storeStream out s).outLen = s.outLen := rfl
@[simp] theorem storeStream_nleaf (out : List Bool) : (storeStream out s).nleaf = s.nleaf := rfl
@[simp] theorem storeStream_nnode (out : List Bool) : (storeStream out s).nnode = s.nnode := rfl
@[simp] theorem storeStream_root (out : List Bool) : (storeStream out s).root = s.root := rfl
@[simp] theorem storeStream_freq (out : List Bool) : (storeStream out s).freq = s.freq := rfl
@[simp] theorem storeStream_arena (out : List Bool) : (storeStream out s).arena = s.arena := rfl
@[simp] theorem storeStream_codes (out : List Bool) : (storeStream out s).codes = s.codes := rfl
@[simp] theorem storeStream_mem (out : List Bool) : (storeStream out s).mem = memWrite s.mem bitBase (streamBytes out) := rfl
@[simp] theorem storeStream_symBg (out : List Bool) : (storeStream out s).symBg = s.symBg := rfl
@[simp] theorem storeStream_bitBg (out : List Bool) : (storeStream out s).bitBg = s.bitBg := rfl
@[simp] theorem storeStream_outBg (out : List Bool) : (storeStream out s).outBg = s.outBg := rfl
@[simp] theorem storeStream_inputs (out : List Bool) : (storeStream out s).inputs = s.inputs := rfl
@[simp] theorem storeStream_rdata (out : List Bool) : (storeStream out s).rdata = s.rdata := rfl
@[simp] theorem storeStream_draws (out : List Bool) : (storeStream out s).draws = s.draws := rfl

@[simp] theorem storeSymbols_params (out : List Byte) : (storeSymbols out s).params = s.params := rfl
@[simp] theorem storeSymbols_engine (out : List Byte) : (storeSymbols out s).engine = s.engine := rfl
@[simp] theorem storeSymbols_ie (out : List Byte) : (storeSymbols out s).ie = s.ie := rfl
@[simp] theorem storeSymbols_done (out : List Byte) : (storeSymbols out s).done = s.done := rfl
@[simp] theorem storeSymbols_wdrop (out : List Byte) : (storeSymbols out s).wdrop = s.wdrop := rfl
@[simp] theorem storeSymbols_treeValid (out : List Byte) : (storeSymbols out s).treeValid = s.treeValid := rfl
@[simp] theorem storeSymbols_codesValid (out : List Byte) : (storeSymbols out s).codesValid = s.codesValid := rfl
@[simp] theorem storeSymbols_err (out : List Byte) : (storeSymbols out s).err = s.err := rfl
@[simp] theorem storeSymbols_lastCmd (out : List Byte) : (storeSymbols out s).lastCmd = s.lastCmd := rfl
@[simp] theorem storeSymbols_errInfo (out : List Byte) : (storeSymbols out s).errInfo = s.errInfo := rfl
@[simp] theorem storeSymbols_inLen (out : List Byte) : (storeSymbols out s).inLen = s.inLen := rfl
@[simp] theorem storeSymbols_bitLen (out : List Byte) : (storeSymbols out s).bitLen = s.bitLen := rfl
@[simp] theorem storeSymbols_outLen (out : List Byte) : (storeSymbols out s).outLen = BitVec.ofNat 32 out.length := rfl
@[simp] theorem storeSymbols_nleaf (out : List Byte) : (storeSymbols out s).nleaf = s.nleaf := rfl
@[simp] theorem storeSymbols_nnode (out : List Byte) : (storeSymbols out s).nnode = s.nnode := rfl
@[simp] theorem storeSymbols_root (out : List Byte) : (storeSymbols out s).root = s.root := rfl
@[simp] theorem storeSymbols_freq (out : List Byte) : (storeSymbols out s).freq = s.freq := rfl
@[simp] theorem storeSymbols_arena (out : List Byte) : (storeSymbols out s).arena = s.arena := rfl
@[simp] theorem storeSymbols_codes (out : List Byte) : (storeSymbols out s).codes = s.codes := rfl
@[simp] theorem storeSymbols_mem (out : List Byte) : (storeSymbols out s).mem = memWrite s.mem outBase out := rfl
@[simp] theorem storeSymbols_symBg (out : List Byte) : (storeSymbols out s).symBg = s.symBg := rfl
@[simp] theorem storeSymbols_bitBg (out : List Byte) : (storeSymbols out s).bitBg = s.bitBg := rfl
@[simp] theorem storeSymbols_outBg (out : List Byte) : (storeSymbols out s).outBg = s.outBg := rfl
@[simp] theorem storeSymbols_inputs (out : List Byte) : (storeSymbols out s).inputs = s.inputs := rfl
@[simp] theorem storeSymbols_rdata (out : List Byte) : (storeSymbols out s).rdata = s.rdata := rfl
@[simp] theorem storeSymbols_draws (out : List Byte) : (storeSymbols out s).draws = s.draws := rfl

@[simp] theorem storeWord_params (a : Nat) (v : Word) : (storeWord a v s).params = s.params := rfl
@[simp] theorem storeWord_engine (a : Nat) (v : Word) : (storeWord a v s).engine = s.engine := rfl
@[simp] theorem storeWord_ie (a : Nat) (v : Word) : (storeWord a v s).ie = s.ie := rfl
@[simp] theorem storeWord_done (a : Nat) (v : Word) : (storeWord a v s).done = s.done := rfl
@[simp] theorem storeWord_wdrop (a : Nat) (v : Word) : (storeWord a v s).wdrop = s.wdrop := rfl
@[simp] theorem storeWord_treeValid (a : Nat) (v : Word) : (storeWord a v s).treeValid = s.treeValid := rfl
@[simp] theorem storeWord_codesValid (a : Nat) (v : Word) : (storeWord a v s).codesValid = s.codesValid := rfl
@[simp] theorem storeWord_err (a : Nat) (v : Word) : (storeWord a v s).err = s.err := rfl
@[simp] theorem storeWord_lastCmd (a : Nat) (v : Word) : (storeWord a v s).lastCmd = s.lastCmd := rfl
@[simp] theorem storeWord_errInfo (a : Nat) (v : Word) : (storeWord a v s).errInfo = s.errInfo := rfl
@[simp] theorem storeWord_inLen (a : Nat) (v : Word) : (storeWord a v s).inLen = s.inLen := rfl
@[simp] theorem storeWord_bitLen (a : Nat) (v : Word) : (storeWord a v s).bitLen = s.bitLen := rfl
@[simp] theorem storeWord_outLen (a : Nat) (v : Word) : (storeWord a v s).outLen = s.outLen := rfl
@[simp] theorem storeWord_nleaf (a : Nat) (v : Word) : (storeWord a v s).nleaf = s.nleaf := rfl
@[simp] theorem storeWord_nnode (a : Nat) (v : Word) : (storeWord a v s).nnode = s.nnode := rfl
@[simp] theorem storeWord_root (a : Nat) (v : Word) : (storeWord a v s).root = s.root := rfl
@[simp] theorem storeWord_freq (a : Nat) (v : Word) : (storeWord a v s).freq = s.freq := rfl
@[simp] theorem storeWord_arena (a : Nat) (v : Word) : (storeWord a v s).arena = s.arena := rfl
@[simp] theorem storeWord_codes (a : Nat) (v : Word) : (storeWord a v s).codes = s.codes := rfl
@[simp] theorem storeWord_mem (a : Nat) (v : Word) : (storeWord a v s).mem = memWrite s.mem a (bytesOfWord v) := rfl
@[simp] theorem storeWord_symBg (a : Nat) (v : Word) : (storeWord a v s).symBg = s.symBg := rfl
@[simp] theorem storeWord_bitBg (a : Nat) (v : Word) : (storeWord a v s).bitBg = s.bitBg := rfl
@[simp] theorem storeWord_outBg (a : Nat) (v : Word) : (storeWord a v s).outBg = s.outBg := rfl
@[simp] theorem storeWord_inputs (a : Nat) (v : Word) : (storeWord a v s).inputs = s.inputs := rfl
@[simp] theorem storeWord_rdata (a : Nat) (v : Word) : (storeWord a v s).rdata = s.rdata := rfl
@[simp] theorem storeWord_draws (a : Nat) (v : Word) : (storeWord a v s).draws = s.draws := rfl

@[simp] theorem answer_params (v : Word) : (answer v s).params = s.params := rfl
@[simp] theorem answer_engine (v : Word) : (answer v s).engine = s.engine := rfl
@[simp] theorem answer_ie (v : Word) : (answer v s).ie = s.ie := rfl
@[simp] theorem answer_done (v : Word) : (answer v s).done = s.done := rfl
@[simp] theorem answer_wdrop (v : Word) : (answer v s).wdrop = s.wdrop := rfl
@[simp] theorem answer_treeValid (v : Word) : (answer v s).treeValid = s.treeValid := rfl
@[simp] theorem answer_codesValid (v : Word) : (answer v s).codesValid = s.codesValid := rfl
@[simp] theorem answer_err (v : Word) : (answer v s).err = s.err := rfl
@[simp] theorem answer_lastCmd (v : Word) : (answer v s).lastCmd = s.lastCmd := rfl
@[simp] theorem answer_errInfo (v : Word) : (answer v s).errInfo = s.errInfo := rfl
@[simp] theorem answer_inLen (v : Word) : (answer v s).inLen = s.inLen := rfl
@[simp] theorem answer_bitLen (v : Word) : (answer v s).bitLen = s.bitLen := rfl
@[simp] theorem answer_outLen (v : Word) : (answer v s).outLen = s.outLen := rfl
@[simp] theorem answer_nleaf (v : Word) : (answer v s).nleaf = s.nleaf := rfl
@[simp] theorem answer_nnode (v : Word) : (answer v s).nnode = s.nnode := rfl
@[simp] theorem answer_root (v : Word) : (answer v s).root = s.root := rfl
@[simp] theorem answer_freq (v : Word) : (answer v s).freq = s.freq := rfl
@[simp] theorem answer_arena (v : Word) : (answer v s).arena = s.arena := rfl
@[simp] theorem answer_codes (v : Word) : (answer v s).codes = s.codes := rfl
@[simp] theorem answer_mem (v : Word) : (answer v s).mem = s.mem := rfl
@[simp] theorem answer_symBg (v : Word) : (answer v s).symBg = s.symBg := rfl
@[simp] theorem answer_bitBg (v : Word) : (answer v s).bitBg = s.bitBg := rfl
@[simp] theorem answer_outBg (v : Word) : (answer v s).outBg = s.outBg := rfl
@[simp] theorem answer_inputs (v : Word) : (answer v s).inputs = s.inputs := rfl
@[simp] theorem answer_rdata (v : Word) : (answer v s).rdata = some v := rfl
@[simp] theorem answer_draws (v : Word) : (answer v s).draws = s.draws := rfl

@[simp] theorem resetRegisters_params : (resetRegisters s).params = s.params := rfl
@[simp] theorem resetRegisters_engine : (resetRegisters s).engine = .idle := rfl
@[simp] theorem resetRegisters_ie : (resetRegisters s).ie = false := rfl
@[simp] theorem resetRegisters_done : (resetRegisters s).done = false := rfl
@[simp] theorem resetRegisters_wdrop : (resetRegisters s).wdrop = false := rfl
@[simp] theorem resetRegisters_treeValid : (resetRegisters s).treeValid = false := rfl
@[simp] theorem resetRegisters_codesValid : (resetRegisters s).codesValid = false := rfl
@[simp] theorem resetRegisters_err : (resetRegisters s).err = none := rfl
@[simp] theorem resetRegisters_lastCmd : (resetRegisters s).lastCmd = 0 := rfl
@[simp] theorem resetRegisters_errInfo : (resetRegisters s).errInfo = 0 := rfl
@[simp] theorem resetRegisters_inLen : (resetRegisters s).inLen = 0 := rfl
@[simp] theorem resetRegisters_bitLen : (resetRegisters s).bitLen = 0 := rfl
@[simp] theorem resetRegisters_outLen : (resetRegisters s).outLen = 0 := rfl
@[simp] theorem resetRegisters_nleaf : (resetRegisters s).nleaf = 0 := rfl
@[simp] theorem resetRegisters_nnode : (resetRegisters s).nnode = 0 := rfl
@[simp] theorem resetRegisters_root : (resetRegisters s).root = nilIdx := rfl
@[simp] theorem resetRegisters_freq : (resetRegisters s).freq = Vector.replicate 256 0 := rfl
@[simp] theorem resetRegisters_arena : (resetRegisters s).arena = Vector.replicate 511 .empty := rfl
@[simp] theorem resetRegisters_codes : (resetRegisters s).codes = Vector.replicate 256 CodeEntry.none := rfl
@[simp] theorem resetRegisters_mem : (resetRegisters s).mem = s.mem := rfl
@[simp] theorem resetRegisters_symBg : (resetRegisters s).symBg = s.symBg := rfl
@[simp] theorem resetRegisters_bitBg : (resetRegisters s).bitBg = s.bitBg := rfl
@[simp] theorem resetRegisters_outBg : (resetRegisters s).outBg = s.outBg := rfl
@[simp] theorem resetRegisters_inputs : (resetRegisters s).inputs = s.inputs := rfl
@[simp] theorem resetRegisters_rdata : (resetRegisters s).rdata = s.rdata := rfl
@[simp] theorem resetRegisters_draws : (resetRegisters s).draws = s.draws := rfl

@[simp] theorem fetchCommand_params (c : Word) : (fetchCommand c s).params = s.params := rfl
@[simp] theorem fetchCommand_engine (c : Word) : (fetchCommand c s).engine = .busy c := rfl
@[simp] theorem fetchCommand_ie (c : Word) : (fetchCommand c s).ie = s.ie := rfl
@[simp] theorem fetchCommand_done (c : Word) : (fetchCommand c s).done = false := rfl
@[simp] theorem fetchCommand_wdrop (c : Word) : (fetchCommand c s).wdrop = s.wdrop := rfl
@[simp] theorem fetchCommand_treeValid (c : Word) : (fetchCommand c s).treeValid = s.treeValid := rfl
@[simp] theorem fetchCommand_codesValid (c : Word) : (fetchCommand c s).codesValid = s.codesValid := rfl
@[simp] theorem fetchCommand_err (c : Word) : (fetchCommand c s).err = none := rfl
@[simp] theorem fetchCommand_lastCmd (c : Word) : (fetchCommand c s).lastCmd = c := rfl
@[simp] theorem fetchCommand_errInfo (c : Word) : (fetchCommand c s).errInfo = 0 := rfl
@[simp] theorem fetchCommand_inLen (c : Word) : (fetchCommand c s).inLen = s.inLen := rfl
@[simp] theorem fetchCommand_bitLen (c : Word) : (fetchCommand c s).bitLen = s.bitLen := rfl
@[simp] theorem fetchCommand_outLen (c : Word) : (fetchCommand c s).outLen = s.outLen := rfl
@[simp] theorem fetchCommand_nleaf (c : Word) : (fetchCommand c s).nleaf = s.nleaf := rfl
@[simp] theorem fetchCommand_nnode (c : Word) : (fetchCommand c s).nnode = s.nnode := rfl
@[simp] theorem fetchCommand_root (c : Word) : (fetchCommand c s).root = s.root := rfl
@[simp] theorem fetchCommand_freq (c : Word) : (fetchCommand c s).freq = s.freq := rfl
@[simp] theorem fetchCommand_arena (c : Word) : (fetchCommand c s).arena = s.arena := rfl
@[simp] theorem fetchCommand_codes (c : Word) : (fetchCommand c s).codes = s.codes := rfl
@[simp] theorem fetchCommand_mem (c : Word) : (fetchCommand c s).mem = s.mem := rfl
@[simp] theorem fetchCommand_symBg (c : Word) : (fetchCommand c s).symBg = s.symBg := rfl
@[simp] theorem fetchCommand_bitBg (c : Word) : (fetchCommand c s).bitBg = s.bitBg := rfl
@[simp] theorem fetchCommand_outBg (c : Word) : (fetchCommand c s).outBg = s.outBg := rfl
@[simp] theorem fetchCommand_inputs (c : Word) : (fetchCommand c s).inputs = .complete :: s.inputs := rfl
@[simp] theorem fetchCommand_rdata (c : Word) : (fetchCommand c s).rdata = s.rdata := rfl
@[simp] theorem fetchCommand_draws (c : Word) : (fetchCommand c s).draws = s.draws := rfl

end Sys2Proof.Machine
end

