-- ==== Sys2Proof/Laws/Step.lean ====
section
/-! SUPPORT. What each command and each step can do, said once: if it answers a next state, then one of these cases holds. -/

namespace Sys2Proof.Machine

variable {s t : State}

/-- Reading operands gives all of them, in order. -/
theorem readAll_ok {α : Type} {f : Nat → Option α} {k i : Nat} {l : List α} (h : readAll f k i = .ok l) :
    l.length = k ∧ ∀ j, (hj : j < l.length) → f (i + j) = some l[j] := by
  induction k generalizing i l with
  | zero => cases h; simp
  | succ k ih =>
    unfold readAll at h
    split at h
    · cases h
    · next x hx =>
      split at h
      · cases h
      · next l' hl =>
        cases h
        obtain ⟨hlen, hget⟩ := ih hl
        refine ⟨by simp [hlen], fun j hj => ?_⟩
        cases j with
        | zero => simpa using hx
        | succ j => simpa [Nat.add_assoc, Nat.add_comm 1] using hget j (by simpa using hj)

/-- Operands that are all written are read. -/
theorem readAll_eq_ok {α : Type} {f : Nat → Option α} {k i : Nat} (g : Nat → α) (h : ∀ j, j < k → f (i + j) = some (g (i + j))) :
    readAll f k i = .ok ((List.range' i k).map g) := by
  induction k generalizing i with
  | zero => rfl
  | succ k ih =>
    have h0 := h 0 (by omega)
    simp only [Nat.add_zero] at h0
    rw [readAll, h0, ih (i := i + 1) (fun j hj => by simpa [Nat.add_assoc, Nat.add_comm 1] using h (j + 1) (by omega))]
    rfl

/-- Reading operands stops at the first that nothing has written. -/
theorem readAll_eq_error {α : Type} {f : Nat → Option α} {k i j : Nat} (hj : j < k) (hn : f (i + j) = none)
    (h : ∀ m, m < j → f (i + m) ≠ none) : readAll f k i = .error (i + j) := by
  induction k generalizing i j with
  | zero => omega
  | succ k ih =>
    unfold readAll
    cases j with
    | zero => simp only [Nat.add_zero] at hn ⊢; rw [hn]
    | succ j =>
      obtain ⟨x, hx⟩ := Option.ne_none_iff_exists'.mp (h 0 (by omega))
      simp only [Nat.add_zero] at hx
      have e : i + (j + 1) = i + 1 + j := by omega
      rw [hx, e, ih (i := i + 1) (j := j) (by omega) (by rw [← e]; exact hn)
        (fun m hm => by simpa [Nat.add_assoc, Nat.add_comm 1] using h (m + 1) (by omega))]

/-- What COUNT can do (40_frequency_counter.md R140). -/
theorem execCount_cases (h : execCount s = .next t) :
    (s.params.symCap < s.inLen.toNat ∧ t = complete (some { kind := .badLength, info := s.inLen }) s) ∨
    (s.inLen.toNat ≤ s.params.symCap ∧ ∃ syms, readAll s.symAt s.inLen.toNat 0 = .ok syms ∧
      t = complete none (invalidate (setFreq (countLoop syms (Vector.replicate 256 0)) s))) := by
  unfold execCount raise succeed at h
  split at h
  · next hc => cases h; exact .inl ⟨hc, rfl⟩
  · next hc =>
    split at h
    · cases h
    · next syms hl => cases h; exact .inr ⟨by omega, syms, hl, rfl⟩

/-- What BUILD can do (41_tree_builder.md R150); it always completes. -/
theorem execBuild_cases (h : execBuild s = .next t) :
    (buildTree s.params.tie (Config.freePick s.draws) s.freq = none ∧
      t = complete (some { kind := .emptyInput, info := 0 }) (takeDraw (setTree noTree (invalidate s)))) ∨
    ∃ T, buildTree s.params.tie (Config.freePick s.draws) s.freq = some T ∧
      t = complete none (takeDraw (validateTree (setTree T (invalidate s)))) := by
  unfold execBuild raise succeed at h
  split at h
  · next hb => cases h; exact .inl ⟨hb, rfl⟩
  · next T hb => cases h; exact .inr ⟨T, hb, rfl⟩

/-- What ASSIGN can do (42_code_assigner.md R170). -/
theorem execAssign_cases (h : execAssign s = .next t) :
    (s.treeValid = false ∧ t = complete (some { kind := .noTree, info := 0 }) s) ∨
    (s.treeValid = true ∧ ∃ codes, assignCodes s.arena s.root = some codes ∧
      t = complete none (setCodes codes s)) := by
  unfold execAssign raise succeed at h
  split at h
  · next hv => cases h; exact .inl ⟨hv, rfl⟩
  · next hv =>
    split at h
    · cases h
    · next codes ha => cases h; exact .inr ⟨by simpa using hv, codes, ha, rfl⟩

/-- What ENCODE can do (43_encoder.md R180). -/
theorem execEncode_cases (h : execEncode s = .next t) :
    (s.codesValid = false ∧ t = complete (some { kind := .noCodes, info := 0 }) s) ∨
    (s.codesValid = true ∧ s.params.symCap < s.inLen.toNat ∧
      t = complete (some { kind := .badLength, info := s.inLen }) s) ∨
    (s.codesValid = true ∧ s.inLen.toNat ≤ s.params.symCap ∧
      ∃ syms out r, readAll s.symAt s.inLen.toNat 0 = .ok syms ∧
        encodeLoop s.codes s.params.bitCap syms 0 [] = (out, r) ∧ t = complete r (storeStream out s)) := by
  unfold execEncode raise at h
  split at h
  · next hv => cases h; exact .inl ⟨hv, rfl⟩
  · next hv =>
    split at h
    · next hc => cases h; exact .inr (.inl ⟨by simpa using hv, hc, rfl⟩)
    · next hc =>
      split at h
      · cases h
      · next l hl => cases h; exact .inr (.inr ⟨by simpa using hv, by omega, l, _, _, hl, rfl, rfl⟩)

/-- What DECODE can do (44_decoder.md R190). -/
theorem execDecode_cases (h : execDecode s = .next t) :
    (s.treeValid = false ∧ t = complete (some { kind := .noTree, info := 0 }) s) ∨
    (s.treeValid = true ∧ s.params.bitCap < s.bitLen.toNat ∧
      t = complete (some { kind := .badLength, info := s.bitLen }) s) ∨
    (s.treeValid = true ∧ s.bitLen.toNat ≤ s.params.bitCap ∧
      ∃ bits out r, readAll s.bitAt s.bitLen.toNat 0 = .ok bits ∧
        decodeLoop s.arena s.root s.params.outCap bits 0 s.root [] 0 = (out, r) ∧ t = complete r (storeSymbols out s)) := by
  unfold execDecode raise at h
  split at h
  · next hv => cases h; exact .inl ⟨hv, rfl⟩
  · next hv =>
    split at h
    · next hc => cases h; exact .inr (.inl ⟨by simpa using hv, hc, rfl⟩)
    · next hc =>
      split at h
      · cases h
      · next l hl => cases h; exact .inr (.inr ⟨by simpa using hv, by omega, l, _, _, hl, rfl, rfl⟩)

/-- No command touches the events to come. -/
theorem exec_inputs {i : Instr} (h : exec i s = .next t) : t.inputs = s.inputs := by
  cases i with
  | count => rcases execCount_cases h with ⟨_, rfl⟩ | ⟨_, _, _, rfl⟩ <;> rfl
  | build => rcases execBuild_cases h with ⟨_, rfl⟩ | ⟨_, _, rfl⟩ <;> rfl
  | assign => rcases execAssign_cases h with ⟨_, rfl⟩ | ⟨_, _, _, rfl⟩ <;> rfl
  | encode => rcases execEncode_cases h with ⟨_, rfl⟩ | ⟨_, _, rfl⟩ | ⟨_, _, _, _, _, _, _, rfl⟩ <;> rfl
  | decode => rcases execDecode_cases h with ⟨_, rfl⟩ | ⟨_, _, rfl⟩ | ⟨_, _, _, _, _, _, _, rfl⟩ <;> rfl
  | illegal c => cases h; rfl

/-- What a completion can do (45_host_interface.md R216). -/
theorem completeStep_cases (h : completeStep s = .next t) :
    (s.engine = .idle ∧ t = s) ∨ ∃ c, s.engine = .busy c ∧ exec (decode c) s = .next t := by
  unfold completeStep at h
  split at h
  · next he => cases h; exact .inl ⟨he, rfl⟩
  · next c he => exact .inr ⟨c, he, h⟩

/-- What a step can do (45_host_interface.md R210). -/
theorem step_cases (h : step s = .next t) :
    (∃ q, completeStep (setInputs q s) = .next t) ∨
    ∃ e q, s.inputs = e :: q ∧
      ((∃ a, t = hostRead a (setInputs q s)) ∨ (∃ a v, t = hostWrite a v (setInputs q s)) ∨
        t = hardReset (setInputs q s)) := by
  unfold step runNext at h
  split at h
  · next hi => exact .inl ⟨[], by rw [← hi]; exact h⟩
  · next e q hi =>
    cases e with
    | hostRead a => cases h; exact .inr ⟨_, q, hi, .inl ⟨a, rfl⟩⟩
    | hostWrite a v => cases h; exact .inr ⟨_, q, hi, .inr (.inl ⟨a, v, rfl⟩)⟩
    | wait =>
      simp only [runEvent] at h
      split at h
      · exact .inl ⟨_, h⟩
      · cases h; exact .inr ⟨_, q, hi, .inl ⟨_, rfl⟩⟩
    | complete => exact .inl ⟨q, h⟩
    | hardReset => cases h; exact .inr ⟨_, q, hi, .inr (.inr rfl)⟩

/-- What a host write can do while idle and while busy, to CTRL. -/
theorem writeCtrl_cases (v : Word) (s : State) :
    writeCtrl v s = softReset s ∨ writeCtrl v s = setIe (v.getLsbD 0) s := by
  unfold writeCtrl; split
  · exact .inl rfl
  · exact .inr rfl

/-- What a soft reset can do (70_reset_and_hazards.md R262, R263). -/
theorem softReset_cases (s : State) :
    softReset s = resetRegisters s ∨ softReset s = resetRegisters (abandonBits s) ∨
      softReset s = resetRegisters (abandonOut s) := by
  unfold softReset abandonCommand
  split
  · exact .inl rfl
  · split <;> simp

/-- What a host write can do (45_host_interface.md R212, R214). -/
theorem hostWrite_cases (a v : Word) (s : State) :
    hostWrite a v s = s ∨ hostWrite a v s = softReset s ∨ hostWrite a v s = setIe (v.getLsbD 0) s ∨
      hostWrite a v s = writeStatus v s ∨ hostWrite a v s = dropWrite s ∨
      (s.engine = .idle ∧ (hostWrite a v s = issue v s ∨ hostWrite a v s = setInLen v s ∨
        hostWrite a v s = setBitLen v s ∨ (∃ b, hostWrite a v s = writeFreq b v s) ∨
        (∃ w, 4 * w < s.params.symCap ∧ hostWrite a v s = storeWord (symBase + 4 * w) v s) ∨
        (∃ w, 32 * w < s.params.bitCap ∧ hostWrite a v s = storeWord (bitBase + 4 * w) v s))) := by
  unfold hostWrite
  split
  · unfold writeBusy
    split
    · rcases writeCtrl_cases v s with h | h <;> simp [h]
    · simp
    · simp
  · next hb =>
    have hi : s.engine = .idle := by
      revert hb; unfold State.busy; cases s.engine <;> simp
    simp only [hi, true_and]
    cases targetOf a with
    | reg r =>
      cases r <;> simp only [writeIdle, writeReg]
      case ctrl => rcases writeCtrl_cases v s with h | h <;> simp [h]
      all_goals simp
    | freq b => simp only [writeIdle]; exact .inr (.inr (.inr (.inr (.inr (.inr (.inr (.inr (.inl ⟨b, rfl⟩))))))))
    | sym w =>
      simp only [writeIdle]; split
      · next hw => exact .inr (.inr (.inr (.inr (.inr (.inr (.inr (.inr (.inr (.inl ⟨w, hw, rfl⟩)))))))))
      · exact .inl rfl
    | bit w =>
      simp only [writeIdle]; split
      · next hw => exact .inr (.inr (.inr (.inr (.inr (.inr (.inr (.inr (.inr (.inr ⟨w, hw, rfl⟩)))))))))
      · exact .inl rfl
    | node n w => exact .inl rfl
    | code b w => exact .inl rfl
    | out w => exact .inl rfl
    | reserved => exact .inl rfl

end Sys2Proof.Machine
end

