-- ==== Sys2Proof/Tests/Slice0.lean ====
section
/-! SUPPORT. Tests: the well-formedness smoke test, decoding of words written out from 30_encoding.md R123, one step of each command
against the vectors of 95_test_vectors.md, and a witness for the hypotheses of every statement that has some. -/

namespace Sys2Proof.Tests.Slice0

open Sys2Proof Sys2Proof.Machine

/- One theorem after the other: waiting for many kernel checks at once takes a thread each. -/
set_option Elab.async false

/-! Well-formedness: an illegal command carries an illegal word (30_encoding.md R124). -/

theorem test_wf_refuses_count_word : Instr.wf (.illegal 0x00000001) = false := by decide
theorem test_wf_refuses_build_word : Instr.wf (.illegal 0x00000002) = false := by decide
theorem test_wf_refuses_assign_word : Instr.wf (.illegal 0x00000003) = false := by decide
theorem test_wf_refuses_encode_word : Instr.wf (.illegal 0x00000004) = false := by decide
theorem test_wf_refuses_decode_word : Instr.wf (.illegal 0x00000005) = false := by decide
theorem test_wf_accepts_rsvd : Instr.wf (.illegal 0x00000101) = true := by decide
theorem test_wf_accepts_opc_zero : Instr.wf (.illegal 0x00000000) = true := by decide
theorem test_wf_accepts_opc_six : Instr.wf (.illegal 0x00000006) = true := by decide

/-! Decoding: RSVD in bits 31:8, OPC in bits 7:0 (30_encoding.md R120, R123). -/

theorem test_decode_count : decode 0b000000000000000000000000_00000001 = .count := by decide
theorem test_decode_build : decode 0b000000000000000000000000_00000010 = .build := by decide
theorem test_decode_assign : decode 0b000000000000000000000000_00000011 = .assign := by decide
theorem test_decode_encode : decode 0b000000000000000000000000_00000100 = .encode := by decide
theorem test_decode_decode : decode 0b000000000000000000000000_00000101 = .decode := by decide
theorem test_decode_illegal_opc : decode 0b000000000000000000000000_00000110 = .illegal 6 := by decide
theorem test_decode_illegal_rsvd : decode 0b000000000000000000000001_00000001 = .illegal 0x101 := by decide

theorem test_decode_table_word :
    [1, 2, 3, 4, 5, 0].map (decodeTableWord 32) =
      [.count, .build, .assign, .encode, .decode, .illegal 0].map some := by decide

/-! The step after reset runs the word given. -/

/-- Whether an outcome is a next state with a property. -/
def nextHas (o : Host.Outcome State Fault Refusal) (p : State → Bool) : Bool :=
  match o with
  | .next t => p t
  | .fault _ => false
  | .refused _ => false

/-- The next state of an outcome, or the given one. -/
def nextOf (o : Host.Outcome State Fault Refusal) (d : State) : State :=
  match o with
  | .next t => t
  | .fault _ => d
  | .refused _ => d

/-- The fault of an outcome. -/
def faultOf (o : Host.Outcome State Fault Refusal) : Option Fault :=
  match o with
  | .next _ => none
  | .fault f => some f
  | .refused _ => none

theorem nextOf_spec {o : Host.Outcome State Fault Refusal} (d : State) (h : nextHas o (fun _ => true) = true) :
    o = .next (nextOf o d) := by
  cases o <;> first | rfl | cases h

theorem test_step_runs_count_after_reset :
    nextHas (step (State.reset.withFetchWord 32 1)) (fun t => t.statusWord == 0x00000002) = true := by decide +kernel

theorem test_step_runs_illegal_after_reset :
    nextHas (step (State.reset.withFetchWord 32 0)) (fun t => t.statusWord == 0x00000506 && t.errInfo == 0) = true := by
  decide +kernel

/-! Small states. -/

/-- Stored bytes from an offset. -/
def bytesAt (base : Nat) (l : List Nat) : Memory := cellsFrom base (l.map (BitVec.ofNat 8))

/-- FREQ with the given counts. -/
def freqOf (l : List (Byte × Word)) : Vector Word 256 :=
  l.foldl (fun f x => freqSet f x.1 x.2) (Vector.replicate 256 0)

/-- CODE with the given codes. -/
def codesOf (l : List (Byte × List Bool)) : Vector CodeEntry 256 :=
  l.foldl (fun c x => codeSet c x.1 (CodeEntry.ofCode x.2)) (Vector.replicate 256 CodeEntry.none)

/-- The input "abracadabra" (95_test_vectors.md V-L1). -/
def abraInput : State :=
  { State.reset with
    inLen := 11, mem := bytesAt 0x10000 [0x61, 0x62, 0x72, 0x61, 0x63, 0x61, 0x64, 0x61, 0x62, 0x72, 0x61] }

/-- Its counts (V-L1). -/
def abraFreq : Vector Word 256 := freqOf [(0x61, 5), (0x62, 2), (0x63, 1), (0x64, 1), (0x72, 2)]

/-- Its tree (V-B4). -/
def abraTree : State :=
  { State.reset with
    freq := abraFreq, treeValid := true, nleaf := 5, nnode := 9, root := 8
    arena := arenaOf [.leaf 0x61 5, .leaf 0x62 2, .leaf 0x63 1, .leaf 0x64 1, .leaf 0x72 2, .internal 2 3 2,
      .internal 1 4 4, .internal 5 6 6, .internal 0 7 11] }

/-- Its codes (V-A2). -/
def abraCodes : Vector CodeEntry 256 :=
  codesOf [(0x61, [false]), (0x62, [true, true, false]), (0x63, [true, false, false]), (0x64, [true, false, true]),
    (0x72, [true, true, true])]

/-! COUNT. -/

/-- V-C1. -/
theorem test_count_abracadabra :
    nextHas (exec .count abraInput) (fun t =>
      t.statusWord == 0x00000002 && t.freq.toList == abraFreq.toList) = true := by decide +kernel

/-- V-C3: IN_LEN = SYM_CAP + 1. -/
theorem test_count_bad_length :
    nextHas (exec .count { State.reset with inLen := 4097 })
      (fun t => t.statusWord == 0x00000806 && t.errInfo == 0x00001001) = true := by decide +kernel

/-! BUILD. -/

/-- V-B4. -/
theorem test_build_abracadabra :
    nextHas (exec .build { State.reset with freq := abraFreq }) (fun t =>
      t.statusWord == 0x00000012 && t.arena.toList == abraTree.arena.toList && t.root == 8 && t.nnode == 9 && t.nleaf == 5) = true := by
  decide +kernel

/-- V-B10: a carry into WHI. -/
theorem test_build_weight_past_32_bits :
    nextHas (exec .build { State.reset with freq := freqOf [(0x00, 0xFFFFFFFF), (0xFF, 0xFFFFFFFF)] }) (fun t =>
      nodeAt t.arena t.root == .internal 0 1 0x1FFFFFFFE && t.root == 2) = true := by decide +kernel

/-! ASSIGN. -/

/-- V-A2: CLEN and CBITS0 of b, and a symbol with no code. -/
theorem test_assign_abracadabra :
    nextHas (exec .assign abraTree) (fun t =>
      t.statusWord == 0x00000032 && readTarget t (.code 0x62 0) == 0x80000003 && readTarget t (.code 0x62 1) == 0xC0000000 &&
        readTarget t (.code 0x65 0) == 0 && t.codes.toList == abraCodes.toList) = true := by decide +kernel

/-- V-A3: a single leaf. -/
theorem test_assign_single_leaf :
    nextHas (exec .assign { State.reset with treeValid := true, root := 0, arena := arenaOf [.leaf 0x61 4] })
      (fun t => readTarget t (.code 0x61 0) == 0x80000001 && readTarget t (.code 0x61 1) == 0) = true := by decide +kernel

/-! ENCODE. -/

/-- V-E1. -/
theorem test_encode_abracadabra :
    nextHas (exec .encode { abraInput with codes := abraCodes, codesValid := true, treeValid := true }) (fun t =>
      t.statusWord == 0x00000032 && t.bitLen == 23 && readTarget t (.bit 0) == 0x6E8ADC00) = true := by decide +kernel

/-- V-E5: UnknownSymbol at index 2, with partial output and padding. -/
theorem test_encode_unknown_symbol :
    nextHas (exec .encode { State.reset with
        codes := codesOf [(0x42, [false]), (0x41, [true])], codesValid := true, treeValid := true, inLen := 4
        mem := bytesAt 0x10000 [0x41, 0x42, 0x43, 0x41] ++ bytesAt 0x20000 [0xFF, 0xFF, 0xFF, 0xFF] }) (fun t =>
      t.statusWord == 0x00000236 && t.errInfo == 2 && t.bitLen == 2 && readTarget t (.bit 0) == 0x80000000) = true := by
  decide +kernel

/-! DECODE. -/

/-- The V-E1 stream: BIT word 0 = 0x6E8ADC00. -/
def abraStream : State := { abraTree with bitLen := 23, mem := bytesAt 0x20000 [0x00, 0xDC, 0x8A, 0x6E] }

/-- V-D1. -/
theorem test_decode_abracadabra :
    nextHas (exec .decode abraStream) (fun t =>
      t.statusWord == 0x00000012 && t.outLen == 11 && readTarget t (.out 0) == 0x61726261 &&
        readTarget t (.out 1) == 0x61646163 && t.outAt 10 == 0x61) = true := by decide +kernel

/-- V-D4: a stream cut in a code. -/
theorem test_decode_truncated :
    nextHas (exec .decode { abraStream with bitLen := 21 }) (fun t =>
      t.statusWord == 0x00000416 && t.errInfo == 19 && t.outLen == 9) = true := by decide +kernel

/-! Illegal words. -/

/-- V-H1. -/
theorem test_illegal_rsvd :
    nextHas (exec (.illegal 0x00000101) State.reset) (fun t =>
      t.statusWord == 0x00000506 && t.errInfo == 0x00000101) = true := by decide +kernel

/-! The host port. -/

/-- V-R1: NODE[0] reads LINK 0x01FF01FF after reset, slot 511 reads 0. -/
theorem test_read_node_window_after_reset :
    [0x2000, 0x2004, 0x3FE0, 0x3FF0].map (fun a => (hostRead a State.reset).rdata) = [0x01FF01FF, 0, 0x01FF01FF, 0].map some := by
  decide +kernel

/-- V-H4: offset bits 1:0 are ignored. -/
theorem test_write_in_len_low_bits : (hostRead 0x016 (hostWrite 0x015 7 State.reset)).rdata = some 7 := by decide +kernel

/-- V-H5: words past capacity read 0. -/
theorem test_read_past_capacity :
    [0x11000, 0x21000, 0x38000].map (fun a => (hostRead a (hostWrite a 5 State.reset)).rdata) = [0, 0, 0].map some := by
  decide +kernel

/-- R86: SYM[1] is in bits 15:8 of SYM word 0. -/
theorem test_write_sym_word : memRead (hostWrite 0x10000 0x41434241 State.reset).mem 0x10001 = some 0x42 := by decide +kernel

/-- 30_encoding.md R127 to R130: WR, RD with an unknown nibble, RUN, ACK and a FILL of five bytes, with the value read. -/
theorem test_encode_program :
    encodeProgram [.wr 0x014 5, .rd 0x30008 [⟨0x617262, 0xFFFFFF⟩], .run .count, .ack, .fill [0x61, 0x62, 0x63, 0x64, 0x65]] =
      [.write 0x014 5, .read 0x30008 [⟨0x617262, 0xFFFFFF⟩], .write 0x00C 1, .waitLoop, .write 0x008 0x0000000A,
        .write 0x10000 0x64636261, .write 0x10004 0x65] := by decide

theorem test_reads_accept :
    readsAccept (encodeProgram [.wr 0x014 5, .rd 0x30008 [⟨0x617262, 0xFFFFFF⟩], .rd 0x014 [.exact 5]]) [0xAB617262, 5] = true ∧
      readsAccept (encodeProgram [.rd 0x30008 [⟨0x617262, 0xFFFFFF⟩], .rd 0x014 [.exact 5]]) [5, 0xAB617262] = false := by decide

/-- 95_test_vectors.md P4, encoding lines 13 and 14, with each of the two outcomes (a) and (b), and a value of neither. -/
theorem test_reads_accept_either :
    [[0x3A, 0x17], [0x32, 0x00], [0x3A, 0x16]].map (readsAccept (encodeProgram
      [.rd 0x008 [.exact 0x3A, .exact 0x32], .rd 0x018 [.exact 0x17, .exact 0]])) = [true, true, false] := by decide

/-- R214: a write while busy is dropped and sets WDROP. -/
theorem test_write_while_busy :
    (hostWrite 0x014 3 (issue 4 State.reset)).statusWord = 0x00000009 ∧ (hostWrite 0x014 3 (issue 4 State.reset)).inLen = 0 := by
  decide

/-! Witnesses: for every statement with hypotheses, a concrete state and operands that meet them, each clause at a boundary. -/

/-- The codes of "abracadabra" beside its tree. -/
def abraCoded : State := { abraTree with codes := abraCodes, codesValid := true }

/-- The tree of FREQ = a:2, b:2 (V-B3), with its codes a = 0, b = 1, the input "ab" and its stream 01. -/
def abCoded : State :=
  { State.reset with
    freq := freqOf [(0x61, 2), (0x62, 2)], treeValid := true, nleaf := 2, nnode := 3, root := 2
    arena := arenaOf [.leaf 0x61 2, .leaf 0x62 2, .internal 0 1 4]
    codes := codesOf [(0x61, [false]), (0x62, [true])], codesValid := true, inLen := 2, bitLen := 2
    mem := bytesAt 0x10000 [0x61, 0x62, 0, 0] ++ bytesAt 0x20000 [0, 0, 0, 0x40] }

/-- The single leaf of FREQ = a:4 (V-B2), OUT_CAP = 4 (V-D10), and the stream 00001. -/
def aTree : State :=
  { State.reset with
    params := { Params.default with outCap := 4 }, treeValid := true, nleaf := 1, nnode := 1, root := 0
    arena := arenaOf [.leaf 0x61 4], bitLen := 5, mem := bytesAt 0x20000 [0, 0, 0, 0x08] }

theorem tree_eq_of_lists {o : Option Tree} {t : Tree}
    (h : o.map (fun u => (u.arena.toList, u.nleaf, u.nnode, u.root)) = some (t.arena.toList, t.nleaf, t.nnode, t.root)) :
    o = some t := by
  cases o with
  | none => cases h
  | some u =>
    cases u; cases t
    simp only [Option.map_some, Option.some.injEq, Prod.mk.injEq] at h
    obtain ⟨h, rfl, rfl, rfl⟩ := h
    rw [Vector.toList_inj.mp h]

theorem codes_eq_of_lists {o : Option (Vector CodeEntry 256)} {c : Vector CodeEntry 256}
    (h : o.map Vector.toList = some c.toList) : o = some c := by
  cases o with
  | none => cases h
  | some u => rw [Vector.toList_inj.mp (Option.some.inj h)]

theorem inv_abraCoded : Inv abraCoded where
  params := by decide +kernel
  memWf := by decide +kernel
  memStores := by decide +kernel
  busyFresh := fun c h => by simp [abraCoded, abraTree, State.reset] at h
  infoZero := by decide +kernel
  codesNeedTree := by decide +kernel
  treeBuilt := fun _ => ⟨fun _ => 0, tree_eq_of_lists (by decide +kernel)⟩
  codesAssigned := fun _ => codes_eq_of_lists (by decide +kernel)

theorem inv_abraTree : Inv abraTree where
  params := by decide +kernel
  memWf := by decide +kernel
  memStores := by decide +kernel
  busyFresh := fun c h => by simp [abraTree, State.reset] at h
  infoZero := by decide +kernel
  codesNeedTree := by decide +kernel
  treeBuilt := fun _ => ⟨fun _ => 0, tree_eq_of_lists (by decide +kernel)⟩
  codesAssigned := fun h => by simp [abraTree, State.reset] at h

theorem inv_abCoded : Inv abCoded where
  params := by decide +kernel
  memWf := by decide +kernel
  memStores := by decide +kernel
  busyFresh := fun c h => by simp [abCoded, State.reset] at h
  infoZero := by decide +kernel
  codesNeedTree := by decide +kernel
  treeBuilt := fun _ => ⟨fun _ => 0, tree_eq_of_lists (by decide +kernel)⟩
  codesAssigned := fun _ => codes_eq_of_lists (by decide +kernel)

/-- The state after reset, under UNINIT_READ = DRAW. -/
def drawReset : State := { State.reset with params := { Params.default with uninit := .draw } }

theorem inv_issued (c : Word) : Inv (issue c drawReset) where
  params := (by decide : drawReset.params.legal)
  memWf := List.Pairwise.nil
  memStores := fun _ h => by cases h
  busyFresh := fun d h => by
    simp only [issue_engine, Engine.busy.injEq] at h
    simp [h]
  infoZero := fun _ => rfl
  codesNeedTree := fun h => by cases h
  treeBuilt := fun h => by cases h
  codesAssigned := fun h => by cases h

theorem test_witness_DecodeAndEncodeAgree : Instr.wf (.illegal 0xFFFFFFFF) = true := by decide

theorem test_witness_StepRunsTheDecodedCommand :
    ∃ (s : State) (c : Word), s.engine = .busy c ∧ s.inputs = [] ∧
      { s with inputs := [.complete] }.inputs = [.complete] ∧ { s with inputs := [.wait] }.inputs = [.wait] ∧ 32 ≤ 32 :=
  ⟨issue 1 State.reset, 1, rfl, rfl, rfl, rfl, le_refl _⟩

theorem test_witness_CommandIssue : ∃ (s : State) (a : Word), s.engine = .idle ∧ wordOffset a = 0x00C :=
  ⟨State.reset, 0x4000F, rfl, by decide⟩

theorem test_witness_CompletionReportsTheOutcome :
    ∃ (i : Instr) (s t : State), exec i s = .next t ∧ t.err = none :=
  ⟨.count, State.reset, _, nextOf_spec State.reset (by decide +kernel), by decide +kernel⟩

/-- Every error of 60_exceptions.md R231 occurs. -/
theorem test_witness_ErrorsAndTheirInfo :
    (nextHas (exec .build State.reset) (fun t => t.err == some .emptyInput) &&
    nextHas (exec .encode { abCoded with mem := bytesAt 0x10000 [0x61, 0x63] }) (fun t => t.err == some .unknownSymbol) &&
    nextHas (exec .decode aTree) (fun t => t.err == some .malformedStream) &&
    nextHas (exec .decode { abraStream with bitLen := 21 }) (fun t => t.err == some .truncatedStream) &&
    nextHas (exec (.illegal 6) State.reset) (fun t => t.err == some .illegalCommand) &&
    nextHas (exec .assign State.reset) (fun t => t.err == some .noTree) &&
    nextHas (exec .encode State.reset) (fun t => t.err == some .noCodes) &&
    nextHas (exec .decode { aTree with bitLen := 32769 }) (fun t => t.err == some .badLength) &&
    nextHas (exec .decode { aTree with mem := bytesAt 0x20000 [0, 0, 0, 0] })
      (fun t => t.err == some .outputOverflow)) = true := by decide +kernel

theorem test_witness_EveryIssuedCommandCompletes :
    ∃ (s : State) (c : Word), Inv s ∧ s.params.uninit = .draw ∧ s.engine = .busy c ∧ (Instr.count ≠ .assign) :=
  ⟨issue 1 drawReset, 1, inv_issued 1, rfl, rfl, by decide⟩

/-- COUNT and ENCODE at the second symbol; the first has no code, so ENCODE would have ended before it. -/
theorem test_witness_UnwrittenBytesStop_symbols :
    ∃ (s : State) (k id : Nat), s.params.uninit = .fault ∧ s.symBg = .unwritten id ∧ s.inLen.toNat ≤ s.params.symCap ∧
      k < s.inLen.toNat ∧ (∀ j, j < k → memRead s.mem (symAddr j) ≠ none) ∧ memRead s.mem (symAddr k) = none ∧
      s.codesValid = true ∧ (codeAt s.codes 0x63).present = false :=
  ⟨{ abCoded with inLen := 4096, mem := bytesAt 0x10000 [0x63] }, 1, 0, by decide +kernel⟩

/-- DECODE at the first bit of the second word. -/
theorem test_witness_UnwrittenBytesStop_bits :
    ∃ (s : State) (k id : Nat), s.params.uninit = .fault ∧ s.bitBg = .unwritten id ∧ s.treeValid = true ∧
      s.bitLen.toNat ≤ s.params.bitCap ∧ k < s.bitLen.toNat ∧ (∀ j, j < k → memRead s.mem (bitAddr j) ≠ none) ∧
      memRead s.mem (bitAddr k) = none :=
  ⟨{ abraStream with bitLen := 32768 }, 32, 0, by decide +kernel⟩

/-- R180, its last corner case: an unwritten symbol after the one that has no code. -/
theorem test_encode_unwritten_operand :
    faultOf (exec .encode { abCoded with inLen := 3, mem := bytesAt 0x10000 [0x63, 0x61] }) = some (.uninitRead 0x10002) := by
  decide +kernel

theorem test_witness_CommandsWriteOnlyTheirOperands :
    ∃ (i : Instr) (s t : State), s.params.legal ∧ exec i s = .next t ∧ i = .decode :=
  ⟨.decode, abCoded, _, by decide +kernel, nextOf_spec abCoded (by decide +kernel), rfl⟩

theorem test_witness_CountCountsTheInput :
    (∃ (s : State) (syms : Nat → Byte), s.inLen.toNat ≤ s.params.symCap ∧
      ∀ i, i < s.inLen.toNat → s.symAt i = some (syms i)) ∧
    ∃ s : State, s.params.symCap < s.inLen.toNat :=
  ⟨⟨abCoded, fun i => if i = 0 then 0x61 else 0x62, by decide +kernel⟩, ⟨{ State.reset with inLen := 4097 }, by decide +kernel⟩⟩

theorem test_witness_CountTotals :
    ∃ (s t : State) (syms : Nat → Byte), s.params.legal ∧ (∀ i, i < s.inLen.toNat → s.symAt i = some (syms i)) ∧
      exec .count s = .next t ∧ t.err = none :=
  ⟨abCoded, _, fun i => if i = 0 then 0x61 else 0x62, by decide +kernel, by decide +kernel,
    nextOf_spec abCoded (by decide +kernel), by decide +kernel⟩

theorem test_witness_BuildMakesATree : ∃ (s : State) (b : Byte), freqAt s.freq b ≠ 0 := ⟨abCoded, 0x61, by decide +kernel⟩

theorem test_witness_BuildEmptyInput : ∃ s : State, ∀ b, freqAt s.freq b = 0 :=
  ⟨State.reset, fun b => by simp [freqAt, State.reset]⟩

/-- Two nodes tie for the least weight. -/
theorem test_witness_ExtractionTakesALeastWeight :
    ∃ (q : List QEntry) (m : QEntry), q ≠ [] ∧ m ∈ q ∧ (∀ e ∈ q, m.w ≤ e.w) ∧ extract .seq 0 q = some m ∧
      ∃ m' ∈ q, m' ≠ m ∧ m'.w = m.w :=
  ⟨[{ idx := 0, w := 1 }, { idx := 1, w := 1 }, { idx := 2, w := 5 }], { idx := 0, w := 1 }, by decide⟩

theorem test_witness_ChildrenAreInExtractionOrder :
    ∃ (s : State) (n l r : NodeIdx) (w : Weight), Inv s ∧ s.treeValid = true ∧ s.params.tie = .seq ∧
      nodeAt s.arena n = .internal l r w :=
  ⟨abCoded, 2, 0, 1, 4, inv_abCoded, by decide +kernel⟩

theorem test_witness_WeightsNeverWrap :
    ∃ (s : State) (n m l r : NodeIdx) (b : Byte) (w x : Weight), Inv s ∧ s.treeValid = true ∧
      nodeAt s.arena n = .leaf b w ∧ nodeAt s.arena m = .internal l r x :=
  ⟨abCoded, 1, 2, 0, 1, 0x62, 2, 4, inv_abCoded, by decide +kernel⟩

theorem test_witness_BuildDependsOnFreqAlone :
    ∃ s1 s2 t1 t2 : State, s1.params.tie = .seq ∧ s2.params.tie = .seq ∧ s1.freq = s2.freq ∧ s1 ≠ s2 ∧
      exec .build s1 = .next t1 ∧ exec .build s2 = .next t2 :=
  ⟨abCoded, { State.reset with freq := abCoded.freq, draws := 7 }, _, _, by decide +kernel, by decide +kernel, rfl,
    by decide +kernel, nextOf_spec abCoded (by decide +kernel), nextOf_spec abCoded (by decide +kernel)⟩

theorem test_witness_AssignGivesEveryLeafItsPath :
    (∃ s : State, Inv s ∧ s.treeValid = true) ∧ ∃ s : State, s.treeValid = false :=
  ⟨⟨abraTree, inv_abraTree, rfl⟩, ⟨State.reset, rfl⟩⟩

/-- The hypotheses of CodesArePrefixFree, CodesCoverTheSymbols, KraftEquality and FrequentSymbolsHaveShortCodes. -/
theorem test_witness_CodesArePrefixFree :
    ∃ (s t : State) (a b : Byte), Inv s ∧ exec .assign s = .next t ∧ t.err = none ∧ a ≠ b ∧
      (codeAt t.codes a).present = true ∧ (codeAt t.codes b).present = true :=
  ⟨abraTree, _, 0x61, 0x72, inv_abraTree, nextOf_spec abraTree (by decide +kernel), by decide +kernel⟩

theorem test_witness_CodesCoverTheSymbols : ∃ s t : State, Inv s ∧ exec .assign s = .next t ∧ t.err = none :=
  ⟨abraTree, _, inv_abraTree, nextOf_spec abraTree (by decide +kernel), by decide +kernel⟩

theorem test_witness_KraftEquality :
    ∃ s t : State, Inv s ∧ exec .assign s = .next t ∧ t.err = none ∧ 2 ≤ t.nleaf.toNat :=
  ⟨abCoded, _, inv_abCoded, nextOf_spec abCoded (by decide +kernel), by decide +kernel⟩

theorem test_witness_FrequentSymbolsHaveShortCodes :
    ∃ (s t : State) (a b : Byte), Inv s ∧ exec .assign s = .next t ∧ t.err = none ∧
      freqAt t.freq b ≠ 0 ∧ freqAt t.freq b < freqAt t.freq a :=
  ⟨abraTree, _, 0x61, 0x72, inv_abraTree, nextOf_spec abraTree (by decide +kernel), by decide +kernel⟩

theorem test_witness_EncodeWritesTheCodes :
    ∃ (s : State) (syms : Nat → Byte), s.codesValid = true ∧ s.inLen.toNat ≤ s.params.symCap ∧
      (∀ i, i < s.inLen.toNat → s.symAt i = some (syms i) ∧ (codeAt s.codes (syms i)).present = true) ∧
      (((List.range s.inLen.toNat).map syms).flatMap (fun b => (codeAt s.codes b).code)).length ≤ s.params.bitCap :=
  ⟨abCoded, fun i => if i = 0 then 0x61 else 0x62, by decide +kernel⟩

theorem test_witness_EncodeStopsAtTheFirstBadSymbol_unknown :
    ∃ (s : State) (syms : Nat → Byte) (k : Nat), s.codesValid = true ∧ s.inLen.toNat ≤ s.params.symCap ∧ k < s.inLen.toNat ∧
      (∀ i, i < s.inLen.toNat → s.symAt i = some (syms i)) ∧ (∀ i, i < k → (codeAt s.codes (syms i)).present = true) ∧
      (((List.range k).map syms).flatMap (fun b => (codeAt s.codes b).code)).length ≤ s.params.bitCap ∧
      (codeAt s.codes (syms k)).present = false :=
  ⟨{ abCoded with mem := bytesAt 0x10000 [0x61, 0x63] }, fun i => if i = 0 then 0x61 else 0x63, 1, by decide +kernel⟩

/-- A one-bit code that finds BIT_CAP = 32 bits full. -/
theorem test_witness_EncodeStopsAtTheFirstBadSymbol_overflow :
    ∃ (s : State) (syms : Nat → Byte) (k : Nat), s.codesValid = true ∧ s.inLen.toNat ≤ s.params.symCap ∧ k < s.inLen.toNat ∧
      (∀ i, i < s.inLen.toNat → s.symAt i = some (syms i)) ∧ (∀ i, i < k → (codeAt s.codes (syms i)).present = true) ∧
      (((List.range k).map syms).flatMap (fun b => (codeAt s.codes b).code)).length ≤ s.params.bitCap ∧
      (codeAt s.codes (syms k)).present = true ∧
      s.params.bitCap < (((List.range k).map syms).flatMap (fun b => (codeAt s.codes b).code)).length +
        (codeAt s.codes (syms k)).len.toNat :=
  ⟨{ abCoded with
      params := { Params.default with bitCap := 32 }, inLen := 33, mem := bytesAt 0x10000 (List.replicate 33 0x61) },
    fun _ => 0x61, 32, by decide +kernel⟩

theorem test_witness_FlagsAreCheckedBeforeLengths :
    ∃ s u : State, s.codesValid = false ∧ s.treeValid = false ∧ u.codesValid = true ∧ u.treeValid = true ∧
      u.params.symCap < u.inLen.toNat ∧ u.params.bitCap < u.bitLen.toNat :=
  ⟨State.reset, { abCoded with inLen := 4097, bitLen := 32769 }, by decide +kernel⟩

/-- The stream of "abba" under the counts of "abba". -/
theorem test_witness_EncodedLengthIsTheWeightedSum :
    ∃ (s t : State) (syms : Nat → Byte), s.params.legal ∧ (∀ i, i < s.inLen.toNat → s.symAt i = some (syms i)) ∧
      (∀ b, (freqAt s.freq b).toNat = ((List.range s.inLen.toNat).map syms).count b) ∧
      exec .encode s = .next t ∧ t.err = none := by
  refine ⟨{ abCoded with inLen := 4, mem := bytesAt 0x10000 [0x61, 0x62, 0x62, 0x61] }, _,
    fun i => if i = 0 ∨ i = 3 then 0x61 else 0x62, by decide +kernel, by decide +kernel, ?_,
    nextOf_spec abCoded (by decide +kernel), by decide +kernel⟩
  have h : ∀ i : Fin 256, (freqAt abCoded.freq (BitVec.ofFin i)).toNat =
      ((List.range 4).map (fun i => if i = 0 ∨ i = 3 then (0x61 : Byte) else 0x62)).count (BitVec.ofFin i) := by decide +kernel
  exact fun b => h b.toFin

theorem test_witness_EncodeTwiceIsTheSame : ∃ s t : State, s.params.legal ∧ exec .encode s = .next t :=
  ⟨abCoded, _, by decide +kernel, nextOf_spec abCoded (by decide +kernel)⟩

theorem codeOf_a : CodeOf abCoded.arena abCoded.root [false] 0x61 := by
  unfold CodeOf; rw [if_neg (by decide +kernel)]; exact ⟨0, by decide +kernel⟩

theorem codeOf_b : CodeOf abCoded.arena abCoded.root [true] 0x62 := by
  unfold CodeOf; rw [if_neg (by decide +kernel)]; exact ⟨1, by decide +kernel⟩

theorem codeOf_single : CodeOf aTree.arena aTree.root [false] 0x61 := by
  unfold CodeOf; rw [if_pos (by decide +kernel)]; exact ⟨rfl, by decide +kernel⟩

theorem test_witness_DecodeReadsCompleteCodes :
    ∃ (s : State) (xs : List (List Bool × Byte)), s.treeValid = true ∧ s.bitLen.toNat ≤ s.params.bitCap ∧
      (∀ x ∈ xs, CodeOf s.arena s.root x.1 x.2) ∧ s.bitLen.toNat = (xs.flatMap Prod.fst).length ∧
      (∀ i, i < s.bitLen.toNat → s.bitAt i = some ((xs.flatMap Prod.fst).getD i false)) ∧ xs.length ≤ s.params.outCap := by
  refine ⟨abCoded, [([false], 0x61), ([true], 0x62)], by decide +kernel, by decide +kernel, ?_, by decide +kernel,
    by decide +kernel, by decide +kernel⟩
  intro x hx
  simp only [List.mem_cons, List.not_mem_nil, or_false] at hx
  rcases hx with rfl | rfl
  · exact codeOf_a
  · exact codeOf_b

theorem test_witness_DecodeTruncatedStream :
    ∃ (s : State) (xs : List (List Bool × Byte)) (p : List Bool) (n : NodeIdx), s.treeValid = true ∧
      s.bitLen.toNat ≤ s.params.bitCap ∧ (nodeAt s.arena s.root).isLeaf = false ∧
      (∀ x ∈ xs, CodeOf s.arena s.root x.1 x.2) ∧ p ≠ [] ∧ walk s.arena s.root p = some n ∧ n ≠ 0x1FF ∧
      (nodeAt s.arena n).isLeaf = false ∧ s.bitLen.toNat = (xs.flatMap Prod.fst ++ p).length ∧
      (∀ i, i < s.bitLen.toNat → s.bitAt i = some ((xs.flatMap Prod.fst ++ p).getD i false)) ∧
      xs.length ≤ s.params.outCap := by
  refine ⟨{ abraStream with bitLen := 2 }, [([false], 0x61)], [true], 7, by decide +kernel, by decide +kernel,
    by decide +kernel, ?_, by decide +kernel⟩
  intro x hx
  simp only [List.mem_cons, List.not_mem_nil, or_false] at hx
  subst hx
  unfold CodeOf; rw [if_neg (by decide +kernel)]; exact ⟨0, by decide +kernel⟩

/-- Case (a): the leaf root of V-D10 and the stream 00001. -/
theorem test_witness_DecodeMalformedStream_leaf :
    ∃ (s : State) (xs : List (List Bool × Byte)), s.treeValid = true ∧
      s.bitLen.toNat ≤ s.params.bitCap ∧ (∀ x ∈ xs, CodeOf s.arena s.root x.1 x.2) ∧
      (nodeAt s.arena s.root).isLeaf = true ∧ (xs.flatMap Prod.fst ++ []).length < s.bitLen.toNat ∧
      (∀ i, i ≤ (xs.flatMap Prod.fst ++ []).length → s.bitAt i = some ((xs.flatMap Prod.fst ++ [] ++ [true]).getD i false)) ∧
      (∀ i, i < s.bitLen.toNat → s.bitAt i ≠ none) ∧ xs.length ≤ s.params.outCap := by
  refine ⟨aTree, List.replicate 4 ([false], 0x61), by decide +kernel, by decide +kernel, ?_, by decide +kernel⟩
  intro x hx
  rw [List.eq_of_mem_replicate hx]
  exact codeOf_single

/-- Case (b): an internal node with a child that is NIL; no run reaches it (44_decoder.md R193). -/
theorem test_witness_DecodeMalformedStream_nil :
    ∃ (s : State) (n l r : NodeIdx) (w : Weight) (p : List Bool) (b : Bool), s.treeValid = true ∧
      s.bitLen.toNat ≤ s.params.bitCap ∧ walk s.arena s.root p = some n ∧ nodeAt s.arena n = .internal l r w ∧
      (if b then r else l) = 0x1FF ∧ p.length < s.bitLen.toNat ∧
      (∀ i, i ≤ p.length → s.bitAt i = some ((p ++ [b]).getD i false)) ∧ (∀ i, i < s.bitLen.toNat → s.bitAt i ≠ none) :=
  ⟨{ abCoded with arena := arenaOf [.leaf 0x61 2, .leaf 0x62 2, .internal 0x1FF 1 2], bitLen := 1 }, 2, 0x1FF, 1, 2, [], false,
    by decide +kernel⟩

theorem test_witness_DecodeOutputOverflow :
    ∃ (s : State) (xs : List (List Bool × Byte)) (p : List Bool) (b : Byte), s.treeValid = true ∧
      s.bitLen.toNat ≤ s.params.bitCap ∧ (∀ x ∈ xs, CodeOf s.arena s.root x.1 x.2) ∧ CodeOf s.arena s.root p b ∧
      (xs.flatMap Prod.fst ++ p).length ≤ s.bitLen.toNat ∧
      (∀ i, i < (xs.flatMap Prod.fst ++ p).length → s.bitAt i = some ((xs.flatMap Prod.fst ++ p).getD i false)) ∧
      (∀ i, i < s.bitLen.toNat → s.bitAt i ≠ none) ∧ xs.length = s.params.outCap := by
  refine ⟨{ aTree with mem := bytesAt 0x20000 [0, 0, 0, 0] }, List.replicate 4 ([false], 0x61), [false], 0x61,
    by decide +kernel, by decide +kernel, ?_, codeOf_single, by decide +kernel⟩
  intro x hx
  rw [List.eq_of_mem_replicate hx]
  exact codeOf_single

/-- A stream error, with its partial output (V-D4). -/
theorem test_witness_DecodeDependsOnTreeAndStream :
    ∃ s1 s2 t1 t2 : State, s1.treeValid = s2.treeValid ∧ s1.arena = s2.arena ∧ s1.root = s2.root ∧ s1.bitLen = s2.bitLen ∧
      s1.params = s2.params ∧ (∀ i, i < s1.bitLen.toNat → s1.bitAt i = s2.bitAt i) ∧ s1.outLen = s2.outLen ∧
      exec .decode s1 = .next t1 ∧ exec .decode s2 = .next t2 ∧ s1.treeValid = true ∧ s1.bitLen.toNat ≤ s1.params.bitCap ∧
      t1.err = some .truncatedStream ∧ t1.outLen = 9 ∧ s1.codesValid ≠ s2.codesValid :=
  ⟨{ abraStream with bitLen := 21 }, { abraStream with bitLen := 21, codesValid := true, codes := abCoded.codes }, _, _, rfl, rfl, rfl, rfl, rfl, fun _ _ => rfl, rfl,
    nextOf_spec abCoded (by decide +kernel), nextOf_spec abCoded (by decide +kernel), rfl, by decide +kernel, by decide +kernel,
    by decide +kernel, by decide⟩

theorem keptFor_refl {s : State} (h : s.engine = .idle) : KeptFor s s :=
  ⟨h, rfl, rfl, fun _ _ => rfl, rfl, rfl, rfl, rfl, rfl, rfl⟩

/-- The pipeline on "ab", state by state. -/
def ab0 : State := { abCoded with codesValid := false, treeValid := false }
def ab1 : State := nextOf (runCommand .count ab0) ab0
def ab2 : State := nextOf (runCommand .build ab1) ab1
def ab3 : State := nextOf (runCommand .assign ab2) ab2
def ab4 : State := nextOf (runCommand .encode ab3) ab3

theorem inv_ab0 : Inv ab0 where
  params := by decide +kernel
  memWf := by decide +kernel
  memStores := by decide +kernel
  busyFresh := fun c h => by simp [ab0, abCoded, State.reset] at h
  infoZero := by decide +kernel
  codesNeedTree := by decide +kernel
  treeBuilt := fun h => by simp [ab0] at h
  codesAssigned := fun h => by simp [ab0] at h

theorem pipeline_runs :
    (nextHas (runCommand .count ab0) (fun _ => true) = true ∧ ab1.err = none ∧ ab1.engine = .idle) ∧
    (nextHas (runCommand .build ab1) (fun _ => true) = true ∧ ab2.err = none ∧ ab2.engine = .idle) ∧
    (nextHas (runCommand .assign ab2) (fun _ => true) = true ∧ ab3.err = none ∧ ab3.engine = .idle) ∧
    nextHas (runCommand .encode ab3) (fun _ => true) = true ∧ ab4.err = none ∧ ab4.engine = .idle := by decide +kernel

theorem test_witness_RoundTrip :
    ∃ s s1 u1 s2 u2 s3 u3 s4 u4 : State,
      Inv s ∧ s.engine = .idle ∧ 1 ≤ s.inLen.toNat ∧ s.inLen.toNat ≤ s.params.outCap ∧
      runCommand .count s = .next s1 ∧ s1.err = none ∧ KeptFor s1 u1 ∧
      runCommand .build u1 = .next s2 ∧ s2.err = none ∧ KeptFor s2 u2 ∧
      runCommand .assign u2 = .next s3 ∧ s3.err = none ∧ KeptFor s3 u3 ∧
      runCommand .encode u3 = .next s4 ∧ s4.err = none ∧ KeptFor s4 u4 ∧
      u4.bitLen = s4.bitLen ∧ (∀ i, i < s4.bitLen.toNat → u4.bitAt i = s4.bitAt i) := by
  obtain ⟨⟨h1, e1, i1⟩, ⟨h2, e2, i2⟩, ⟨h3, e3, i3⟩, h4, e4, i4⟩ := pipeline_runs
  exact ⟨ab0, ab1, ab1, ab2, ab2, ab3, ab3, ab4, ab4, inv_ab0, rfl, by decide, by decide, nextOf_spec ab0 h1, e1, keptFor_refl i1,
    nextOf_spec ab1 h2, e2, keptFor_refl i2, nextOf_spec ab2 h3, e3, keptFor_refl i3, nextOf_spec ab3 h4, e4, keptFor_refl i4,
    rfl, fun _ _ => rfl⟩

theorem test_witness_SavedFreqRebuildsTheDecoder :
    ∃ s1 s2 b2 t1 t2 : State, Inv s1 ∧ Inv s2 ∧ s1.params = s2.params ∧ s1.params.tie = .seq ∧
      s1.freq = s2.freq ∧ s1.bitLen = s2.bitLen ∧ (∀ i, i < s1.bitLen.toNat → s1.bitAt i = s2.bitAt i) ∧
      s1.treeValid = true ∧ s1.bitLen.toNat ≤ s1.params.bitCap ∧
      exec .decode s1 = .next t1 ∧ exec .build s2 = .next b2 ∧ exec .decode b2 = .next t2 ∧ s2.treeValid = false :=
  ⟨abCoded, ab0, _, _, _, inv_abCoded, inv_ab0, rfl, rfl, rfl, rfl, fun _ _ => rfl, rfl, by decide +kernel,
    nextOf_spec abCoded (by decide +kernel), nextOf_spec ab0 (by decide +kernel), nextOf_spec ab0 (by decide +kernel), rfl⟩

theorem test_witness_EmptyInputStaysFatal : ∃ s t : State, exec .build s = .next t ∧ t.err = some .emptyInput :=
  ⟨State.reset, _, nextOf_spec State.reset (by decide +kernel), by decide +kernel⟩

/-- The offsets of RegisterReads, RegisterWrites, ReadsWhileBusy and WritesWhileBusy are the word offsets of some access. -/
theorem test_witness_RegisterReads :
    State.reset.engine = .idle ∧ ∀ off ∈ [0x000, 0x004, 0x008, 0x00C, 0x010, 0x014, 0x018, 0x01C, 0x020, 0x024, 0x028, 0x02C, 0x030,
      0x034, 0x038], wordOffset (BitVec.ofNat 32 (off + 3)) = off := by decide

theorem test_witness_RegisterWrites :
    ∃ (s : State) (a v : Word), s.engine = .idle ∧ wordOffset a = 0x004 ∧ v.getLsbD 1 = false ∧ v.getLsbD 0 = true :=
  ⟨State.reset, 4, 1, by decide⟩

theorem test_witness_FreqWindow :
    ∃ (s : State) (a b : Word), s.engine = .idle ∧ wordOffset a = 0x00400 + 4 * (0x00 : Byte).toNat ∧
      wordOffset b = 0x00400 + 4 * (0xFF : Byte).toNat := ⟨State.reset, 0x400, 0x7FF, by decide⟩

/-- Slots 0, 510 and 511, first and last word. -/
theorem test_witness_NodeWindow :
    ∃ (s : State) (a b c : Word), s.engine = .idle ∧ wordOffset a = 0x02000 + 16 * (0 : NodeIdx).toNat + 4 * 0 ∧
      wordOffset b = 0x02000 + 16 * (510 : NodeIdx).toNat + 4 * 3 ∧ wordOffset c = 0x02000 + 16 * (511 : NodeIdx).toNat + 4 * 3 :=
  ⟨State.reset, 0x2000, 0x3FEC, 0x3FFC, by decide⟩

/-- CLEN, CBITS0, CBITS7, the first and the last reserved word. -/
theorem test_witness_CodeWindow :
    ∃ s : State, s.engine = .idle ∧ ∀ k ∈ [0, 1, 8, 9, 15],
      wordOffset (BitVec.ofNat 32 (0x7FC0 + 4 * k)) = 0x04000 + 64 * (0xFF : Byte).toNat + 4 * k := ⟨State.reset, by decide⟩

/-- The last word below the capacity, the first past it, and the last of the window. -/
theorem test_witness_SymWindow :
    ∃ s : State, s.engine = .idle ∧ 4 * 1023 < s.params.symCap ∧ s.params.symCap ≤ 4 * 1024 ∧ ∀ w ∈ [0, 1023, 1024, 16383],
      w < 16384 ∧ wordOffset (BitVec.ofNat 32 (0x10000 + 4 * w)) = 0x10000 + 4 * w := ⟨State.reset, by decide⟩

theorem test_witness_BitWindow :
    ∃ s : State, s.engine = .idle ∧ 32 * 1023 < s.params.bitCap ∧ s.params.bitCap ≤ 32 * 1024 ∧ ∀ w ∈ [0, 1023, 1024, 16383],
      w < 16384 ∧ wordOffset (BitVec.ofNat 32 (0x20000 + 4 * w)) = 0x20000 + 4 * w := ⟨State.reset, by decide⟩

theorem test_witness_OutWindow :
    ∃ s : State, s.engine = .idle ∧ 4 * 8191 < s.params.outCap ∧ s.params.outCap ≤ 4 * 8192 ∧ ∀ w ∈ [0, 8191, 8192, 16383],
      w < 16384 ∧ wordOffset (BitVec.ofNat 32 (0x30000 + 4 * w)) = 0x30000 + 4 * w := ⟨State.reset, by decide⟩

/-- Both ends of each reserved range, idle and busy, and accesses to come. -/
theorem test_witness_ReservedOffsets :
    (∀ off ∈ [0x02C, 0x03C, 0x3FC, 0x00800, 0x01FFC, 0x08000, 0x0FFFC, 0x03FF0, 0x03FFC, 0x04024, 0x07FFC, 0x11000, 0x1FFFC,
      0x21000, 0x2FFFC, 0x38000, 0x3FFFC], wordOffset (BitVec.ofNat 32 off) = off) ∧
      State.reset.engine = .idle ∧ (issue 1 State.reset).engine = .busy 1 ∧
      (setInputs [.hostRead 0] State.reset).inputs = [.hostRead 0] ∧
      (setInputs [.hostWrite 0 0] State.reset).inputs = [.hostWrite 0 0] := by decide

theorem test_witness_OffsetBitsIgnored :
    ∃ a b : Word, a ≠ b ∧ a.extractLsb' 2 16 = b.extractLsb' 2 16 := ⟨0x00014, 0x40017, by decide⟩

theorem test_witness_WritesWhileBusy :
    ∃ (s : State) (c a : Word), s.engine = .busy c ∧ wordOffset a ≠ 0x004 ∧ wordOffset a ≠ 0x008 ∧
      wordOffset (0x008 : Word) = 0x008 ∧ wordOffset (0x004 : Word) = 0x004 := ⟨issue 4 State.reset, 4, 0x10000, by decide⟩

theorem test_witness_ReadsWhileBusy :
    ∃ (s : State) (c a : Word), Inv s ∧ s.engine = .busy c ∧
      wordOffset a ∉ [0x000, 0x004, 0x008, 0x00C, 0x030, 0x034, 0x038] := ⟨issue 4 drawReset, 4, 0x10, inv_issued 4, rfl, by decide⟩

theorem test_witness_InterruptFollowsCompletion :
    ∃ (s t : State) (a b c : Word), exec .count s = .next t ∧ s.ie = true ∧ s.engine = .idle ∧ wordOffset a = 0x00C ∧
      wordOffset b = 0x008 ∧ wordOffset c = 0x004 :=
  ⟨setIe true State.reset, _, 0xC, 8, 4, nextOf_spec State.reset (by decide +kernel), by decide⟩

theorem test_witness_HardResetSetsEverything :
    ∃ (s : State) (q : List Event), s.inputs = .hardReset :: q ∧ s.engine = .busy 4 :=
  ⟨setInputs [.hardReset] (issue 4 State.reset), [], rfl, rfl⟩

theorem test_witness_SoftResetKeepsTheBuffers :
    ∃ (a v : Word), wordOffset a = 0x004 ∧ v.getLsbD 1 = true ∧ abCoded.engine = .idle ∧
      (issue 1 abCoded).engine = .busy 1 ∧ decode 1 ≠ .encode ∧ decode 1 ≠ .decode ∧
      (issue 4 abCoded).engine = .busy 4 ∧ decode 4 = .encode ∧ (issue 5 abCoded).engine = .busy 5 ∧ decode 5 = .decode :=
  ⟨4, 3, by decide, by decide, rfl, rfl, by decide, by decide, rfl, by decide, rfl, by decide⟩

theorem test_witness_EveryStepKeepsTheInvariant :
    ∃ s t : State, Inv s ∧ step s = .next t ∧ s.engine = .busy 1 :=
  ⟨issue 1 drawReset, _, inv_issued 1, nextOf_spec drawReset (by decide +kernel), rfl⟩

/-- Each flag is set by some step: BUSY, WDROP, DONE and an error, TREE_VALID, CODES_VALID. -/
theorem test_witness_FlagsAreSetOnlyAsListed :
    (nextHas (step (setInputs [.hostWrite 0xC 1] State.reset)) (fun t => t.busy) &&
    nextHas (step (setInputs [.hostWrite 0x14 1] (issue 1 State.reset))) (fun t => t.wdrop) &&
    nextHas (step (issue 0 State.reset)) (fun t => t.done && t.err == some .illegalCommand) &&
    nextHas (step (issue 2 ab0)) (fun t => t.treeValid) &&
    nextHas (step (issue 3 { abCoded with codesValid := false })) (fun t => t.codesValid)) = true := by decide +kernel

/-- FREQ changes by COUNT, a host write, a soft and a hard reset. -/
theorem test_witness_FreqChangesInvalidate :
    (nextHas (step (issue 1 ab0)) (fun t => freqAt t.freq 0x61 == 1 && freqAt ab0.freq 0x61 == 2) &&
    nextHas (step (setInputs [.hostWrite 0x7FC 1] abCoded)) (fun t => freqAt t.freq 0xFF == 1) &&
    nextHas (step (setInputs [.hostWrite 0x004 2] abCoded)) (fun t => freqAt t.freq 0x61 == 0) &&
    nextHas (step (setInputs [.hardReset] abCoded)) (fun t => freqAt t.freq 0x61 == 0)) = true := by decide +kernel

theorem test_witness_ParametersNeverChange : ∃ s t : State, step s = .next t ∧ s.engine = .busy 2 :=
  ⟨issue 2 State.reset, _, nextOf_spec State.reset (by decide +kernel), rfl⟩

end Sys2Proof.Tests.Slice0
end

section
/-! SUPPORT. What a command reads, and how each command ends once its operands are read: the facts behind 00_scope.md R19. -/

namespace Sys2Proof.Machine

variable {s t : State}

/-- UNINIT_READ = FAULT and a byte that nothing has written since hard reset: nothing else stops a command's read. -/
theorem cmdByte_eq_none_iff {u : UninitRead} {m : Memory} {bg : Background} {a : Nat} :
    cmdByte u m bg a = none ↔ u = .fault ∧ memRead m a = none ∧ ∃ id, bg = .unwritten id := by
  unfold cmdByte
  cases memRead m a with
  | some b => simp
  | none => cases bg <;> cases u <;> simp

theorem symAt_eq_none_iff {i : Nat} :
    s.symAt i = none ↔
      s.params.uninit = .fault ∧ memRead s.mem (symAddr i) = none ∧ ∃ id, s.symBg = .unwritten id :=
  cmdByte_eq_none_iff

theorem bitAt_eq_none_iff {i : Nat} :
    s.bitAt i = none ↔
      s.params.uninit = .fault ∧ memRead s.mem (bitAddr i) = none ∧ ∃ id, s.bitBg = .unwritten id :=
  Option.map_eq_none_iff.trans cmdByte_eq_none_iff

/-- Operands of which each can be read are read, however many there are. -/
theorem readAll_of_readable {α : Type} {f : Nat → Option α} (h : ∀ j, f j ≠ none) (k i : Nat) :
    ∃ l, readAll f k i = .ok l :=
  ⟨_, readAll_eq_ok (fun j => (f j).get (Option.isSome_iff_ne_none.2 (h j))) fun _ _ => (Option.some_get _).symm⟩

/-- Operands that are read byte by byte as a command reads them stop at the first of them that nothing has written. -/
theorem readAll_stops_at_unwritten {α : Type} {f : Nat → Option α} {m : Memory} {addr : Nat → Nat} {n k : Nat}
    (hf : ∀ i, f i = none ↔ memRead m (addr i) = none) (hk : k < n)
    (hbefore : ∀ j, j < k → memRead m (addr j) ≠ none) (hnone : memRead m (addr k) = none) :
    readAll f n 0 = .error k := by
  have hr := readAll_eq_error (f := f) (i := 0) hk (by simpa [hf] using hnone) (by simpa [hf] using hbefore)
  simpa using hr

/-- COUNT past its length check stops at the operand that stops `readAll`. -/
theorem execCount_of_readAll_error {k : Nat} (hlen : s.inLen.toNat ≤ s.params.symCap)
    (hr : readAll s.symAt s.inLen.toNat 0 = .error k) : execCount s = .fault (.uninitRead (symAddr k)) := by
  rw [execCount, if_neg (by omega), hr]

/-- ENCODE past its checks stops at the operand that stops `readAll`. -/
theorem execEncode_of_readAll_error {k : Nat} (hv : s.codesValid = true) (hlen : s.inLen.toNat ≤ s.params.symCap)
    (hr : readAll s.symAt s.inLen.toNat 0 = .error k) : execEncode s = .fault (.uninitRead (symAddr k)) := by
  rw [execEncode, if_neg (by simp [hv]), if_neg (by omega), hr]

/-- DECODE past its checks stops at the operand that stops `readAll`. -/
theorem execDecode_of_readAll_error {k : Nat} (hv : s.treeValid = true) (hlen : s.bitLen.toNat ≤ s.params.bitCap)
    (hr : readAll s.bitAt s.bitLen.toNat 0 = .error k) : execDecode s = .fault (.uninitRead (bitAddr k)) := by
  rw [execDecode, if_neg (by simp [hv]), if_neg (by omega), hr]

/-- Every next state of a command is a completion (45_host_interface.md R216). -/
theorem exec_next_is_completion {i : Instr} (h : exec i s = .next t) : ∃ r u, t = complete r u := by
  cases i with
  | count => rcases execCount_cases h with ⟨_, rfl⟩ | ⟨_, _, _, rfl⟩ <;> exact ⟨_, _, rfl⟩
  | build => rcases execBuild_cases h with ⟨_, rfl⟩ | ⟨_, _, rfl⟩ <;> exact ⟨_, _, rfl⟩
  | assign => rcases execAssign_cases h with ⟨_, rfl⟩ | ⟨_, _, _, rfl⟩ <;> exact ⟨_, _, rfl⟩
  | encode => rcases execEncode_cases h with ⟨_, rfl⟩ | ⟨_, _, rfl⟩ | ⟨_, _, _, _, _, _, _, rfl⟩ <;> exact ⟨_, _, rfl⟩
  | decode => rcases execDecode_cases h with ⟨_, rfl⟩ | ⟨_, _, rfl⟩ | ⟨_, _, _, _, _, _, _, rfl⟩ <;> exact ⟨_, _, rfl⟩
  | illegal c => cases h; exact ⟨_, _, rfl⟩

theorem execCount_completes (h : ∀ j, s.symAt j ≠ none) : ∃ t, execCount s = .next t := by
  obtain ⟨syms, hr⟩ := readAll_of_readable h s.inLen.toNat 0
  unfold execCount
  split
  · exact ⟨_, rfl⟩
  · rw [hr]; exact ⟨_, rfl⟩

/-- BUILD completes in every state. -/
theorem execBuild_completes (s : State) : ∃ t, execBuild s = .next t := by
  unfold execBuild
  split <;> exact ⟨_, rfl⟩

theorem execEncode_completes (h : ∀ j, s.symAt j ≠ none) : ∃ t, execEncode s = .next t := by
  obtain ⟨syms, hr⟩ := readAll_of_readable h s.inLen.toNat 0
  unfold execEncode
  split
  · exact ⟨_, rfl⟩
  · split
    · exact ⟨_, rfl⟩
    · rw [hr]; exact ⟨_, rfl⟩

theorem execDecode_completes (h : ∀ j, s.bitAt j ≠ none) : ∃ t, execDecode s = .next t := by
  obtain ⟨bits, hr⟩ := readAll_of_readable h s.bitLen.toNat 0
  unfold execDecode
  split
  · exact ⟨_, rfl⟩
  · split
    · exact ⟨_, rfl⟩
    · rw [hr]; exact ⟨_, rfl⟩

/-- Under UNINIT_READ = DRAW no read stops a command, so every command but ASSIGN completes. -/
theorem exec_completes_of_draw {i : Instr} (hd : s.params.uninit = .draw) (hi : i ≠ .assign) : ∃ t, exec i s = .next t := by
  have hsym (j : Nat) : s.symAt j ≠ none := by simp [symAt_eq_none_iff, hd]
  have hbit (j : Nat) : s.bitAt j ≠ none := by simp [bitAt_eq_none_iff, hd]
  cases i with
  | count => exact execCount_completes hsym
  | build => exact execBuild_completes s
  | assign => exact absurd rfl hi
  | encode => exact execEncode_completes hsym
  | decode => exact execDecode_completes hbit
  | illegal c => exact ⟨_, rfl⟩

end Sys2Proof.Machine
end

section
/-! SUPPORT. The tree that BUILD leaves in the arena (41_tree_builder.md R150 to R158), as a value: what an extraction returns, one
induction for every invariant of the merge loop, and the tree below ROOT with its leaves. -/

namespace Sys2Proof.Machine

variable {s : State}

/-! Extraction (41_tree_builder.md R152). -/

theorem firstOf_mem (m : QEntry) (q : List QEntry) : firstOf m q ∈ m :: q := by
  induction q generalizing m with
  | nil => simp [firstOf]
  | cons e q ih =>
    rw [firstOf]
    split
    · exact List.mem_cons_of_mem _ (ih e)
    · exact List.mem_cons.2 ((List.mem_cons.1 (ih m)).imp id (List.mem_cons_of_mem _))

theorem leastWeight_mem (w : Weight) (q : List QEntry) : leastWeight w q = w ∨ ∃ e ∈ q, e.w = leastWeight w q := by
  induction q generalizing w with
  | nil => simp [leastWeight]
  | cons e q ih =>
    rw [leastWeight]
    obtain h | ⟨x, hx, hw⟩ := ih (if e.w < w then e.w else w)
    · rw [h]; split <;> simp
    · exact .inr ⟨x, List.mem_cons_of_mem _ hx, hw⟩

/-- The node extracted is one of the queue. -/
theorem extract_mem {tie : TieOrder} {pick : Nat} {q : List QEntry} {m : QEntry} (h : extract tie pick q = some m) : m ∈ q := by
  cases q with
  | nil => cases h
  | cons e q =>
    cases tie with
    | seq => cases h; exact firstOf_mem e q
    | any => exact (List.mem_filter.1 (List.mem_of_getElem? h)).1

/-- Extraction fails on the empty queue only. -/
theorem extract_eq_none {tie : TieOrder} {pick : Nat} {q : List QEntry} (h : extract tie pick q = none) : q = [] := by
  cases q with
  | nil => rfl
  | cons e q =>
    cases tie with
    | seq => cases h
    | any =>
      obtain ⟨x, hx, hw⟩ : ∃ x ∈ e :: q, x.w = leastWeight e.w q := by
        obtain h0 | ⟨x, hx, hw⟩ := leastWeight_mem e.w q
        · exact ⟨e, List.mem_cons_self, h0.symm⟩
        · exact ⟨x, List.mem_cons_of_mem _ hx, hw⟩
      have hpos := List.length_pos_of_mem (List.mem_filter (p := fun x => x.w == leastWeight e.w q) |>.2 ⟨hx, by simp [hw]⟩)
      have hle := List.getElem?_eq_none_iff.1 h
      have := Nat.mod_lt pick hpos
      omega

/-- In a queue of distinct nodes a removal takes one element off. -/
theorem remove_perm {m : QEntry} {q : List QEntry} (hq : (q.map QEntry.idx).Nodup) (hm : m ∈ q) : (m :: remove m q).Perm q := by
  induction q with
  | nil => simp at hm
  | cons e q ih =>
    obtain ⟨he, hq⟩ := List.nodup_cons.1 hq
    obtain rfl | hm := List.mem_cons.1 hm
    · have : remove m q = q := List.filter_eq_self.2 fun x hx => by
        simpa using fun hxm : x.idx = m.idx => he (hxm ▸ List.mem_map_of_mem hx)
      rw [show remove m (m :: q) = remove m q by simp [remove], this]
    · have hne : e.idx ≠ m.idx := fun h => he (h ▸ List.mem_map_of_mem hm)
      have : remove m (e :: q) = e :: remove m q := by simp [remove, hne]
      rw [this]
      exact (List.Perm.swap _ _ _).trans ((ih hq hm).cons e)

/-! The merge loop (41_tree_builder.md R150, R153). -/

/-- A merge takes the two extracted nodes off the queue and leaves the rest. -/
theorem merge_queue_perm {m1 m2 : QEntry} {q : List QEntry} (hq : (q.map QEntry.idx).Nodup) (h1 : m1 ∈ q)
    (h2 : m2 ∈ remove m1 q) : q.Perm (m1 :: m2 :: remove m2 (remove m1 q)) :=
  (remove_perm hq h1).symm.trans
    ((remove_perm (hq.sublist (List.filter_sublist.map _)) h2).symm.cons m1)

/-- What every merge keeps, the loop keeps; and it goes on until at most one node is left. -/
theorem mergeLoop_induction {tie : TieOrder} {picks : Nat → Nat} {P : List QEntry → List Node → Prop}
    (hnodup : ∀ q nodes, P q nodes → (q.map QEntry.idx).Nodup)
    (hmerge : ∀ t q nodes m1 m2, P q nodes → extract tie (picks t) q = some m1 →
      extract tie (picks (t + 1)) (remove m1 q) = some m2 →
      P (remove m2 (remove m1 q) ++ [{ idx := nodes.length, w := m1.w + m2.w }])
        (nodes ++ [.internal (BitVec.ofNat 9 m1.idx) (BitVec.ofNat 9 m2.idx) (m1.w + m2.w)]))
    (fuel t : Nat) {q : List QEntry} {nodes : List Node} (hP : P q nodes) (hf : q.length ≤ fuel) :
    P (mergeLoop tie picks fuel t q nodes).1 (mergeLoop tie picks fuel t q nodes).2 ∧
      (mergeLoop tie picks fuel t q nodes).1.length ≤ 1 := by
  induction fuel generalizing t q nodes with
  | zero => exact ⟨hP, by simpa [mergeLoop] using hf.trans (Nat.zero_le 1)⟩
  | succ fuel ih =>
    rw [mergeLoop]
    split
    · next h1 => exact ⟨hP, by simp [extract_eq_none h1]⟩
    · next m1 h1 =>
      have hq := hnodup _ _ hP
      split
      · next h2 =>
        have hl := (remove_perm hq (extract_mem h1)).length_eq
        rw [extract_eq_none h2] at hl
        exact ⟨hP, by simp [← hl]⟩
      · next m2 h2 =>
        have hl := (merge_queue_perm hq (extract_mem h1) (extract_mem h2)).length_eq
        exact ih (t + 2) (hmerge t q nodes m1 m2 hP h1 h2) (by simp at hl ⊢; omega)

/-! The arena that holds a list of nodes. -/

theorem nodeAt_arenaOf (nodes : List Node) (n : NodeIdx) : nodeAt (arenaOf nodes) n = (nodes.take 511)[n.toNat]?.getD .empty := by
  simp only [nodeAt, arenaOf, Vector.getElem?_mk, List.getElem?_toArray, List.getElem?_append]
  split
  · rfl
  · next h =>
    rw [List.getElem?_eq_none (by omega : (nodes.take 511).length ≤ n.toNat), List.getElem?_replicate]
    split <;> rfl

/-- A node of the list at its index. -/
theorem nodeAt_arenaOf_of_getElem? {nodes : List Node} {i : Nat} {x : Node} (hi : i < 511) (hx : nodes[i]? = some x) :
    nodeAt (arenaOf nodes) (BitVec.ofNat 9 i) = x := by
  have hn : (BitVec.ofNat 9 i).toNat = i := by simp; omega
  rw [nodeAt_arenaOf, hn, List.getElem?_take_of_lt hi, hx, Option.getD_some]

/-- A longer list has the same nodes where the shorter one had any. -/
theorem nodeAt_arenaOf_append {nodes : List Node} {n : NodeIdx} (more : List Node)
    (h : nodeAt (arenaOf nodes) n ≠ .empty) : nodeAt (arenaOf (nodes ++ more)) n = nodeAt (arenaOf nodes) n := by
  rw [nodeAt_arenaOf] at h
  have hn : n.toNat < (nodes.take 511).length := by
    by_contra hn
    exact h (by rw [List.getElem?_eq_none (by omega)]; rfl)
  rw [nodeAt_arenaOf, nodeAt_arenaOf, List.take_append, List.getElem?_append_left hn]

/-! The tree below a node, as a value. -/

/-- A binary tree with a symbol at each leaf. -/
inductive CodeTree where
  | leaf (b : Byte)
  | node (l r : CodeTree)

/-- How many nodes a tree has. -/
def CodeTree.size : CodeTree → Nat
  | .leaf _ => 1
  | .node l r => l.size + r.size + 1

/-- The symbols at the leaves, from left to right. -/
def CodeTree.symbols : CodeTree → List Byte
  | .leaf b => [b]
  | .node l r => l.symbols ++ r.symbols

/-- The nodes of the arena from node `n` down are the tree. -/
def CodeTree.IsAt (arena : Vector Node 511) : CodeTree → NodeIdx → Prop
  | .leaf b, n => ∃ w, nodeAt arena n = .leaf b w
  | .node l r, n => ∃ i j w, nodeAt arena n = .internal i j w ∧ l.IsAt arena i ∧ r.IsAt arena j

/-- A binary tree has one leaf more than it has internal nodes (10_state.md R52). -/
theorem CodeTree.size_add_one (t : CodeTree) : t.size + 1 = 2 * t.symbols.length := by
  induction t with
  | leaf b => rfl
  | node l r ihl ihr => simp only [size, symbols, List.length_append]; omega

theorem CodeTree.isAt_arenaOf_append {nodes : List Node} (more : List Node) {t : CodeTree} {n : NodeIdx}
    (h : t.IsAt (arenaOf nodes) n) : t.IsAt (arenaOf (nodes ++ more)) n := by
  induction t generalizing n with
  | leaf b =>
    obtain ⟨w, hw⟩ := h
    exact ⟨w, by rw [nodeAt_arenaOf_append more (by simp [hw]), hw]⟩
  | node l r ihl ihr =>
    obtain ⟨i, j, w, hw, hl, hr⟩ := h
    exact ⟨i, j, w, by rw [nodeAt_arenaOf_append more (by simp [hw]), hw], ihl hl, ihr hr⟩

/-! The forest of the merge loop. -/

/-- The queue holds the roots of a forest whose leaves carry the symbols `syms`, each once; every merge makes one node more and
one queue element less. -/
structure MergeInv (syms : List Byte) (q : List QEntry) (nodes : List Node) : Prop where
  nodup : (q.map QEntry.idx).Nodup
  bound : ∀ e ∈ q, e.idx < nodes.length
  count : nodes.length + q.length = 2 * syms.length
  forest : ∃ ts, List.Forall₂ (fun e t => CodeTree.IsAt (arenaOf nodes) t (BitVec.ofNat 9 e.idx)) q ts ∧
    (ts.flatMap CodeTree.symbols).Perm syms

/-- A merge keeps the forest: the trees of the two extracted nodes become the children of the new one. -/
theorem MergeInv.merge {syms : List Byte} {q : List QEntry} {nodes : List Node} {m1 m2 : QEntry} (hsyms : syms.length ≤ 256)
    (h : MergeInv syms q nodes) (h1 : m1 ∈ q) (h2 : m2 ∈ remove m1 q) :
    MergeInv syms (remove m2 (remove m1 q) ++ [{ idx := nodes.length, w := m1.w + m2.w }])
      (nodes ++ [.internal (BitVec.ofNat 9 m1.idx) (BitVec.ofNat 9 m2.idx) (m1.w + m2.w)]) := by
  obtain ⟨hnodup, hbound, hcount, ts, hts, hperm⟩ := h
  have hq := merge_queue_perm hnodup h1 h2
  have hrest (e : QEntry) (he : e ∈ remove m2 (remove m1 q)) : e.idx < nodes.length :=
    hbound e (hq.mem_iff.2 (by simp [he]))
  have hlen : q.length = (remove m2 (remove m1 q)).length + 2 := hq.length_eq
  obtain ⟨ts', hts', hperm'⟩ := List.perm_comp_forall₂ hq.symm hts
  obtain ⟨t1, _, ht1, hts1, rfl⟩ := List.forall₂_cons_left_iff.1 hts'
  obtain ⟨t2, rest, ht2, hts2, rfl⟩ := List.forall₂_cons_left_iff.1 hts1
  refine ⟨?_, ?_, by simp; omega, rest ++ [.node t1 t2], ?_, ?_⟩
  · rw [List.map_append, List.nodup_append]
    refine ⟨((hq.map _).nodup_iff.1 hnodup).of_cons.of_cons, List.nodup_singleton _, ?_⟩
    rintro i hi _ hj rfl
    obtain ⟨e, he, rfl⟩ := List.mem_map.1 hi
    have := hrest e he
    simp at hj
    omega
  · intro e he
    obtain he | he := List.mem_append.1 he
    · exact (hrest e he).trans (by simp)
    · obtain rfl := List.mem_singleton.1 he
      simp
  · refine List.rel_append (hts2.imp fun _ _ => CodeTree.isAt_arenaOf_append _) (.cons ?_ .nil)
    exact ⟨_, _, _, nodeAt_arenaOf_of_getElem? (by dsimp only; omega) List.getElem?_concat_length,
      CodeTree.isAt_arenaOf_append _ ht1, CodeTree.isAt_arenaOf_append _ ht2⟩
  · calc (rest ++ [CodeTree.node t1 t2]).flatMap CodeTree.symbols
        _ = rest.flatMap CodeTree.symbols ++ (t1.symbols ++ t2.symbols) := by simp [CodeTree.symbols]
        List.Perm _ (t1.symbols ++ t2.symbols ++ rest.flatMap CodeTree.symbols) := List.perm_append_comm
        _ = (t1 :: t2 :: rest).flatMap CodeTree.symbols := by simp
        List.Perm _ (ts.flatMap CodeTree.symbols) := hperm'.flatMap_right _
        List.Perm _ syms := hperm

/-- The queue of the leaves lists their indices in order. -/
theorem queueFrom_map_idx (j : Nat) (nodes : List Node) : (queueFrom j nodes).map QEntry.idx = List.range' j nodes.length := by
  induction nodes generalizing j with
  | nil => rfl
  | cons n nodes ih => simp [queueFrom, ih, List.range'_succ]

theorem queueFrom_length (j : Nat) (nodes : List Node) : (queueFrom j nodes).length = nodes.length := by
  simpa using congrArg List.length (queueFrom_map_idx j nodes)

theorem queueFrom_getElem_idx {j i : Nat} {nodes : List Node} (h : i < (queueFrom j nodes).length) :
    (queueFrom j nodes)[i].idx = j + i := by
  have hi : i < ((queueFrom j nodes).map QEntry.idx).length := by simpa using h
  rw [← List.getElem_map QEntry.idx (h := hi)]
  simp [queueFrom_map_idx]

theorem leafSymbols_length_le (freq : Vector Word 256) : (leafSymbols freq).length ≤ 256 :=
  (List.length_filter_le _ _).trans (by simp)

/-- Before the first merge every leaf is a tree of its own. -/
theorem mergeInv_leaves (freq : Vector Word 256) :
    MergeInv (leafSymbols freq) (queueFrom 0 ((leafSymbols freq).map (leafOf freq))) ((leafSymbols freq).map (leafOf freq)) where
  nodup := by rw [queueFrom_map_idx]; exact List.nodup_range'
  bound e he := by
    obtain ⟨i, hi, rfl⟩ := List.getElem_of_mem he
    rw [queueFrom_getElem_idx, Nat.zero_add]
    rwa [queueFrom_length] at hi
  count := by simp [queueFrom_length]; omega
  forest := by
    have hle := leafSymbols_length_le freq
    refine ⟨(leafSymbols freq).map .leaf, List.forall₂_iff_get.2 ⟨by simp [queueFrom_length], fun i hq hs => ?_⟩,
      by simp [List.flatMap_map, CodeTree.symbols]⟩
    have hi : i < (leafSymbols freq).length := by simpa using hs
    simp only [List.get_eq_getElem, List.getElem_map, queueFrom_getElem_idx, Nat.zero_add]
    exact ⟨_, nodeAt_arenaOf_of_getElem? (by omega) (by rw [List.getElem?_map, List.getElem?_eq_getElem hi]; rfl)⟩

/-- The arena BUILD leaves holds a tree below ROOT, and its leaves carry the symbols of nonzero count, each once
(41_tree_builder.md R151, R155). -/
theorem buildTree_isAt {tie : TieOrder} {picks : Nat → Nat} {freq : Vector Word 256} {T : Tree}
    (h : buildTree tie picks freq = some T) :
    ∃ t : CodeTree, t.IsAt T.arena T.root ∧ t.symbols.Perm (leafSymbols freq) := by
  obtain ⟨hinv, hlen⟩ := mergeLoop_induction (tie := tie) (picks := picks) (fun _ _ hP => hP.nodup)
    (fun _ _ _ _ _ hP h1 h2 => hP.merge (leafSymbols_length_le freq) (extract_mem h1) (extract_mem h2))
    _ 0 (mergeInv_leaves freq) le_rfl
  obtain ⟨-, -, -, ts, hts, hperm⟩ := hinv
  unfold buildTree at h
  dsimp only at h
  split at h
  · cases h
  · next r rest nodes hloop =>
    cases h
    rw [hloop] at hts hlen
    obtain rfl : rest = [] := by simpa using hlen
    obtain ⟨t, us, ht, hus, rfl⟩ := List.forall₂_cons_left_iff.1 hts
    obtain rfl := List.forall₂_nil_left_iff.1 hus
    exact ⟨t, ht, by simpa using hperm⟩

/-! The traversal of ASSIGN (42_code_assigner.md R170 to R173). -/

/-- The code table after the traversal of a tree from the path `p`. -/
def CodeTree.assign : CodeTree → List Bool → Vector CodeEntry 256 → Vector CodeEntry 256
  | .leaf b, p, codes => codeSet codes b (CodeEntry.ofCode p)
  | .node l r, p, codes => r.assign (p ++ [true]) (l.assign (p ++ [false]) codes)

/-- The traversal of a tree pops each of its nodes once, and goes on with the stack below it. -/
theorem CodeTree.assignLoop_isAt {arena : Vector Node 511} {t : CodeTree} {n : NodeIdx} (h : t.IsAt arena n) (fuel : Nat)
    (p : List Bool) (stack : List (NodeIdx × List Bool)) (codes : Vector CodeEntry 256) :
    assignLoop arena (fuel + t.size) ((n, p) :: stack) codes = assignLoop arena fuel stack (t.assign p codes) := by
  induction t generalizing n fuel p stack codes with
  | leaf b =>
    obtain ⟨w, hw⟩ := h
    simp [size, assignLoop, hw, Node.isLeaf, Node.symbol, assign]
  | node l r ihl ihr =>
    obtain ⟨i, j, w, hw, hl, hr⟩ := h
    have hsize : fuel + (node l r).size = fuel + r.size + l.size + 1 := by simp only [size]; omega
    simp [hsize, assignLoop, hw, Node.isLeaf, Node.leftChild, Node.rightChild, ihl hl, ihr hr, assign]

/-- The code table of a tree: every leaf's path, and "0" for a leaf root (42_code_assigner.md R171, R172). -/
def CodeTree.codeTable : CodeTree → Vector CodeEntry 256
  | .leaf b => codeSet (Vector.replicate 256 CodeEntry.none) b (CodeEntry.ofCode singleLeafCode)
  | .node l r => (CodeTree.node l r).assign [] (Vector.replicate 256 CodeEntry.none)

/-- On a tree of at most 511 nodes ASSIGN's traversal ends, with the tree's code table. -/
theorem CodeTree.assignCodes_isAt {arena : Vector Node 511} {t : CodeTree} {root : NodeIdx} (h : t.IsAt arena root)
    (hsize : t.size ≤ 511) : assignCodes arena root = some t.codeTable := by
  have hloop := t.assignLoop_isAt h (511 - t.size) [] [] (Vector.replicate 256 CodeEntry.none)
  rw [Nat.sub_add_cancel hsize] at hloop
  cases t with
  | leaf b =>
    obtain ⟨w, hw⟩ := h
    simp [assignCodes, hw, Node.isLeaf, Node.symbol, codeTable]
  | node l r =>
    obtain ⟨i, j, w, hw, -, -⟩ := h
    rw [assignCodes, if_neg (by simp [hw, Node.isLeaf]), hloop, assignLoop, codeTable]

/-- ASSIGN's traversal ends on every tree of BUILD (42_code_assigner.md R173): it has at most 256 leaves, so at most 511 nodes. -/
theorem assignCodes_of_buildTree {tie : TieOrder} {picks : Nat → Nat} {freq : Vector Word 256} {T : Tree}
    (h : buildTree tie picks freq = some T) :
    ∃ t : CodeTree, t.IsAt T.arena T.root ∧ t.symbols.Perm (leafSymbols freq) ∧
      assignCodes T.arena T.root = some t.codeTable := by
  obtain ⟨t, ht, hperm⟩ := buildTree_isAt h
  have hleaves := hperm.length_eq.trans_le (leafSymbols_length_le freq)
  have hsize := t.size_add_one
  exact ⟨t, ht, hperm, t.assignCodes_isAt ht (by omega)⟩

/-- ASSIGN completes in every state that meets the invariant: with NoTree, or on a tree of BUILD. -/
theorem execAssign_completes (hi : Inv s) : ∃ t, execAssign s = .next t := by
  unfold execAssign
  split
  · exact ⟨_, rfl⟩
  · next hv =>
    obtain ⟨picks, hb⟩ := hi.treeBuilt (by simpa using hv)
    obtain ⟨t, -, -, hc⟩ := assignCodes_of_buildTree hb
    dsimp only at hc
    rw [hc]
    exact ⟨_, rfl⟩

end Sys2Proof.Machine
end

section
/-! SUPPORT. The statements of 00_scope.md R19: where a command stops on an operand, and that every issued command completes. -/

namespace Sys2Proof.Machine

/-- Settles O10: an operand that nothing has written reads as `none`, the ones before it do not, so `readAll` stops there. -/
theorem unwrittenBytesStop : Obligations.UnwrittenBytesStop := by
  intro s k id hu
  refine ⟨fun hbg hlen hk hbefore hnone => ?_, fun hbg hv hlen hk hbefore hnone => ?_⟩
  · have hr : readAll s.symAt s.inLen.toNat 0 = .error k :=
      readAll_stops_at_unwritten (fun _ => by simp [symAt_eq_none_iff, hu, hbg]) hk hbefore hnone
    exact ⟨execCount_of_readAll_error hlen hr, fun hv => execEncode_of_readAll_error hv hlen hr⟩
  · have hr : readAll s.bitAt s.bitLen.toNat 0 = .error k :=
      readAll_stops_at_unwritten (fun _ => by simp [bitAt_eq_none_iff, hu, hbg]) hk hbefore hnone
    exact execDecode_of_readAll_error hv hlen hr

/-- Settles O9: under DRAW only ASSIGN could stop, and under the invariant its tree is one of BUILD; every next state of a command is
a completion. -/
theorem everyIssuedCommandCompletes : Obligations.EveryIssuedCommandCompletes := by
  refine ⟨fun s c hi hd hc => ?_, fun i s hd hne => exec_completes_of_draw hd hne⟩
  have hstep : completeStep s = exec (decode c) s := by rw [completeStep, hc]
  obtain ⟨t, ht⟩ : ∃ t, exec (decode c) s = .next t := by
    by_cases ha : decode c = .assign
    · rw [ha]; exact execAssign_completes hi
    · exact exec_completes_of_draw hd ha
  obtain ⟨r, u, rfl⟩ := exec_next_is_completion ht
  exact ⟨_, hstep.trans ht, rfl, rfl⟩

end Sys2Proof.Machine
end

section
/-! SUPPORT. The address map by offset (20_memory.md R81): which words are reserved, and what a host access while idle and while
busy comes down to. -/

namespace Sys2Proof.Machine

variable {s : State}

theorem wordOffset_mod_four (a : Word) : wordOffset a % 4 = 0 := Nat.mul_mod_left _ _

theorem regAt_eq_some_iff {off : Nat} {r : Reg} : regAt off = some r ↔ off = r.offset.toNat := by
  constructor
  · intro h
    unfold regAt at h
    split at h <;> cases h <;> rfl
  · rintro rfl
    cases r <;> rfl

/-- A register is selected by its offset, and by no other. -/
theorem targetOf_eq_reg_iff {a : Word} {r : Reg} : targetOf a = .reg r ↔ wordOffset a = r.offset.toNat := by
  constructor
  · intro h
    unfold targetOf targetOfOffset at h
    split_ifs at h
    split at h
    · next hr => cases h; exact regAt_eq_some_iff.1 hr
    · cases h
  · intro h
    rw [targetOf, h]
    cases r <;> rfl

/-- The words of the register region that are no register are reserved (10_state.md R45). -/
theorem targetOf_reservedReg {a : Word} (h : wordOffset a = 0x02C ∨ (0x03C ≤ wordOffset a ∧ wordOffset a < 0x00400)) :
    targetOf a = .reserved := by
  rw [targetOf, targetOfOffset, if_pos (by unfold freqBase; omega)]
  split
  · next r hr =>
    have hoff := regAt_eq_some_iff.1 hr
    rw [hoff] at h
    cases r <;> revert h <;> decide
  · rfl

theorem targetOf_reservedLow {a : Word} (h : 0x00800 ≤ wordOffset a) (h' : wordOffset a < 0x02000) : targetOf a = .reserved := by
  unfold targetOf targetOfOffset freqBase nodeBase
  rw [if_neg (by omega), if_neg (by omega), if_pos h']

theorem targetOf_node {a : Word} (h : 0x02000 ≤ wordOffset a) (h' : wordOffset a < 0x04000) :
    targetOf a = .node (BitVec.ofNat 9 ((wordOffset a - 0x02000) / 16)) ((wordOffset a - 0x02000) % 16 / 4) := by
  unfold targetOf targetOfOffset freqBase nodeBase codeBase
  rw [if_neg (by omega), if_neg (by omega), if_neg (by omega), if_pos h']

theorem targetOf_code {a : Word} (h : 0x04000 ≤ wordOffset a) (h' : wordOffset a < 0x08000) :
    targetOf a = .code (BitVec.ofNat 8 ((wordOffset a - 0x04000) / 64)) ((wordOffset a - 0x04000) % 64 / 4) := by
  unfold targetOf targetOfOffset freqBase nodeBase codeBase
  rw [if_neg (by omega), if_neg (by omega), if_neg (by omega), if_neg (by omega), if_pos h']

theorem targetOf_reservedHigh {a : Word} (h : 0x08000 ≤ wordOffset a) (h' : wordOffset a < 0x10000) :
    targetOf a = .reserved := by
  unfold targetOf targetOfOffset freqBase nodeBase codeBase symBase
  rw [if_neg (by omega), if_neg (by omega), if_neg (by omega), if_neg (by omega), if_neg (by omega), if_pos h']

theorem targetOf_sym {a : Word} (h : 0x10000 ≤ wordOffset a) (h' : wordOffset a < 0x20000) :
    targetOf a = .sym ((wordOffset a - 0x10000) / 4) := by
  unfold targetOf targetOfOffset freqBase nodeBase codeBase symBase bitBase
  rw [if_neg (by omega), if_neg (by omega), if_neg (by omega), if_neg (by omega), if_neg (by omega), if_neg (by omega), if_pos h']

theorem targetOf_bit {a : Word} (h : 0x20000 ≤ wordOffset a) (h' : wordOffset a < 0x30000) :
    targetOf a = .bit ((wordOffset a - 0x20000) / 4) := by
  unfold targetOf targetOfOffset freqBase nodeBase codeBase symBase bitBase outBase
  rw [if_neg (by omega), if_neg (by omega), if_neg (by omega), if_neg (by omega), if_neg (by omega), if_neg (by omega),
    if_neg (by omega), if_pos h']

theorem targetOf_out {a : Word} (h : 0x30000 ≤ wordOffset a) : targetOf a = .out ((wordOffset a - 0x30000) / 4) := by
  unfold targetOf targetOfOffset freqBase nodeBase codeBase symBase bitBase outBase
  rw [if_neg (by omega), if_neg (by omega), if_neg (by omega), if_neg (by omega), if_neg (by omega), if_neg (by omega),
    if_neg (by omega), if_neg (by omega)]

/-- The FREQ window is one range of offsets (20_memory.md R83). -/
theorem wordOffset_of_targetOf_freq {a : Word} {b : Byte} (h : targetOf a = .freq b) :
    0x00400 ≤ wordOffset a ∧ wordOffset a < 0x00800 := by
  unfold targetOf targetOfOffset freqBase at h
  split_ifs at h
  · split at h <;> cases h
  · omega

/-! Host accesses while idle and while busy (45_host_interface.md R211 to R215). -/

theorem busy_eq_false_of_idle (h : s.engine = .idle) : s.busy = false := by rw [State.busy, h]

theorem busy_eq_true_of_busy {c : Word} (h : s.engine = .busy c) : s.busy = true := by rw [State.busy, h]

theorem hostRead_of_idle (h : s.engine = .idle) (a : Word) : hostRead a s = answer (readTarget s (targetOf a)) s := by
  simp [hostRead, busy_eq_false_of_idle h]

theorem hostWrite_of_idle (h : s.engine = .idle) (a v : Word) : hostWrite a v s = writeIdle v s (targetOf a) := by
  simp [hostWrite, busy_eq_false_of_idle h]

theorem hostWrite_of_busy {c : Word} (h : s.engine = .busy c) (a v : Word) : hostWrite a v s = writeBusy v s (targetOf a) := by
  simp [hostWrite, busy_eq_true_of_busy h]

/-- A read of a register while idle answers its value. -/
theorem hostRead_reg_of_idle (h : s.engine = .idle) {a : Word} {r : Reg} (ha : wordOffset a = r.offset.toNat) :
    hostRead a s = { s with rdata := some (readReg s r) } := by
  rw [hostRead_of_idle h, targetOf_eq_reg_iff.2 ha]
  rfl

/-- A write while busy to a target other than CTRL and STATUS is dropped. -/
theorem writeBusy_of_ne {T : Target} (hc : T ≠ .reg .ctrl) (hs : T ≠ .reg .status) (v : Word) :
    writeBusy v s T = dropWrite s := by
  unfold writeBusy
  split
  · exact absurd rfl hc
  · exact absurd rfl hs
  · rfl

/-! Reserved words (20_memory.md R89, 10_state.md R45). -/

/-- The targets that are reserved: no entry, no code bits, no buffer storage. -/
def Reserves (p : Params) : Target → Prop
  | .reserved => True
  | .node n _ => n = nilIdx
  | .code _ word => 9 ≤ word
  | .sym w => p.symCap ≤ 4 * w
  | .bit w => p.bitCap ≤ 32 * w
  | .out w => p.outCap ≤ 4 * w
  | .reg _ => False
  | .freq _ => False

theorem readTarget_of_reserves {T : Target} (h : Reserves s.params T) : readTarget s T = 0 := by
  cases T with
  | reserved => rfl
  | node n w => exact if_pos h
  | code b w =>
    obtain ⟨k, rfl⟩ := Nat.exists_eq_add_of_le' h
    simp [readTarget, codeWord]
  | sym w => exact if_neg (Nat.not_lt.2 h)
  | bit w => exact if_neg (Nat.not_lt.2 h)
  | out w => exact if_neg (Nat.not_lt.2 h)
  | reg r => exact h.elim
  | freq b => exact h.elim

theorem writeIdle_of_reserves {T : Target} (h : Reserves s.params T) (v : Word) : writeIdle v s T = s := by
  cases T with
  | reserved => rfl
  | node n w => rfl
  | code b w => rfl
  | sym w => exact if_neg (Nat.not_lt.2 h)
  | bit w => exact if_neg (Nat.not_lt.2 h)
  | out w => rfl
  | reg r => exact h.elim
  | freq b => exact h.elim

theorem writeBusy_of_reserves {T : Target} (h : Reserves s.params T) (v : Word) : writeBusy v s T = dropWrite s :=
  writeBusy_of_ne (by rintro rfl; exact h) (by rintro rfl; exact h) v

/-- The reserved offsets of 20_memory.md R89 select reserved targets. -/
theorem reserves_targetOf {p : Params} {a : Word}
    (h : wordOffset a = 0x02C ∨ (0x03C ≤ wordOffset a ∧ wordOffset a < 0x400) ∨
      (0x00800 ≤ wordOffset a ∧ wordOffset a < 0x02000) ∨ (0x08000 ≤ wordOffset a ∧ wordOffset a < 0x10000) ∨
      (0x03FF0 ≤ wordOffset a ∧ wordOffset a < 0x04000) ∨
      (0x04000 ≤ wordOffset a ∧ wordOffset a < 0x08000 ∧ 0x24 ≤ wordOffset a % 64) ∨
      (0x10000 + p.symCap ≤ wordOffset a ∧ wordOffset a < 0x20000) ∨
      (0x20000 ≤ wordOffset a ∧ wordOffset a < 0x30000 ∧ p.bitCap ≤ 8 * (wordOffset a - 0x20000)) ∨
      0x30000 + p.outCap ≤ wordOffset a) : Reserves p (targetOf a) := by
  have hmod := wordOffset_mod_four a
  rcases h with h | h | ⟨h, h'⟩ | ⟨h, h'⟩ | ⟨h, h'⟩ | ⟨h, h', h9⟩ | ⟨h, h'⟩ | ⟨h, h', hcap⟩ | h
  · rw [targetOf_reservedReg (.inl h)]; trivial
  · rw [targetOf_reservedReg (.inr h)]; trivial
  · rw [targetOf_reservedLow h h']; trivial
  · rw [targetOf_reservedHigh h h']; trivial
  · rw [targetOf_node (by omega) h', show (wordOffset a - 0x02000) / 16 = 511 by omega]
    exact rfl
  · rw [targetOf_code h h']
    show 9 ≤ (wordOffset a - 0x04000) % 64 / 4
    omega
  · rw [targetOf_sym (by omega) h']
    show p.symCap ≤ 4 * ((wordOffset a - 0x10000) / 4)
    omega
  · rw [targetOf_bit h h']
    show p.bitCap ≤ 32 * ((wordOffset a - 0x20000) / 4)
    omega
  · rw [targetOf_out (by omega)]
    show p.outCap ≤ 4 * ((wordOffset a - 0x30000) / 4)
    omega

/-! The words of STATUS and CTRL (10_state.md R34, R35). -/

theorem ctrlWord_eq (s : State) : s.ctrlWord = if s.ie then 1 else 0 := by
  rw [State.ctrlWord]
  cases s.ie <;> rfl

theorem errCode_ne_zero_iff (s : State) : s.errCode ≠ 0 ↔ s.err ≠ none := by
  rw [State.errCode]
  rcases s.err with _ | e
  · simp
  · cases e <;> simp [ErrKind.code]

theorem busy_iff (s : State) : s.busy = true ↔ ∃ c, s.engine = .busy c := by
  rw [State.busy]
  cases s.engine <;> simp

end Sys2Proof.Machine
end

section
/-! SUPPORT. The statements of 10_state.md about registers: what they read, their values after reset, and the reserved words. -/

namespace Sys2Proof.Machine

/-- Settles O38: the offset selects the register, and CTRL and ROOT are zero-extended fields. -/
theorem registerReads : Obligations.RegisterReads := by
  intro s a h
  have hread (r : Reg) (ha : wordOffset a = r.offset.toNat) := hostRead_reg_of_idle h ha
  refine ⟨hread .id, ?_, hread .status, hread .cmd, hread .errInfo, hread .inLen, hread .bitLen, hread .outLen, hread .nleaf,
    hread .nnode, ?_, hread .capSym, hread .capBit, hread .capOut⟩
  · rw [← ctrlWord_eq]
    exact hread .ctrl
  · have hroot : s.root.setWidth 32 = (0#23) ++ s.root := BitVec.setWidth_eq_append (by decide)
    rw [BitVec.ofNat_toNat, hroot]
    exact hread .root

/-- Settles O39: each field at its place in the concatenation that makes up STATUS, and the code of each error. -/
theorem statusFields : Obligations.StatusFields := by
  intro s
  rw [← busy_iff, ← errCode_ne_zero_iff]
  simp only [State.statusWord, BitVec.getLsbD_append, BitVec.extractLsb'_append_eq_ite]
  refine ⟨?_, ?_, ?_, ?_, ?_, ?_, ?_, ?_, ?_⟩ <;> simp
  rw [State.errCode]
  rcases s.err with _ | e
  · rfl
  · cases e <;> rfl

/-- Settles O47: the reserved offsets select reserved targets. -/
theorem reservedOffsets : Obligations.ReservedOffsets := by
  refine ⟨fun s a v h => ?_, fun s q a v => ⟨fun h => ?_, fun h => ?_⟩⟩
  · have hr : Reserves s.params (targetOf a) := reserves_targetOf h
    refine ⟨fun hidle => ⟨?_, ?_⟩, fun c hc => ?_⟩
    · rw [hostRead_of_idle hidle, readTarget_of_reserves hr]
      rfl
    · rw [hostWrite_of_idle hidle, writeIdle_of_reserves hr]
    · rw [hostWrite_of_busy hc, writeBusy_of_reserves hr]
      rfl
  · rw [step, runNext, h]
    rfl
  · rw [step, runNext, h]
    rfl

/-- Settles O52: the registers by their values after reset, the tables entry by entry. -/
theorem resetValues : Obligations.ResetValues := by
  refine ⟨by decide +kernel, rfl, rfl, rfl, fun b => ?_, fun n => ?_, fun b => ?_⟩
  · simp [State.reset, freqAt]
  · simp only [State.reset, nodeAt, Vector.getElem?_replicate]
    split <;> rfl
  · simp [State.reset, codeAt]

/-- Settles O55: after reset memory is empty, no flag is set and the engine is idle. -/
theorem resetMeetsTheInvariant : Obligations.ResetMeetsTheInvariant where
  params := by decide
  memWf := reset_mem_wf
  memStores := nofun
  busyFresh := nofun
  infoZero _ := rfl
  codesNeedTree := nofun
  treeBuilt := nofun
  codesAssigned := nofun

end Sys2Proof.Machine
end

section
/-! SUPPORT. What a step can do, said once with the event that does it: the completions, the host's accesses with their offsets, and
the resets. -/

namespace Sys2Proof.Machine

variable {s t : State}

/-! The commands (45_host_interface.md R216, R217). -/

/-- How a completion comes about: command `i` leaves the state with the given outcome to be reported. Past a failed check nothing
is written; otherwise the operands of 30_encoding.md R122 are, within the capacities. -/
inductive CommandEffect (s : State) : Instr → Option Raise → State → Prop
  | fails (i : Instr) (e : Raise) : CommandEffect s i (some e) s
  | count (freq : Vector Word 256) : CommandEffect s .count none (invalidate (setFreq freq s))
  | buildFails (e : Raise) : CommandEffect s .build (some e) (takeDraw (setTree noTree (invalidate s)))
  | build (T : Tree) (hT : buildTree s.params.tie (Config.freePick s.draws) s.freq = some T) :
      CommandEffect s .build none (takeDraw (validateTree (setTree T (invalidate s))))
  | assign (codes : Vector CodeEntry 256) (hv : s.treeValid = true) (hc : assignCodes s.arena s.root = some codes) :
      CommandEffect s .assign none (setCodes codes s)
  | encode (out : List Bool) (r : Option Raise) (hout : out.length ≤ s.params.bitCap) :
      CommandEffect s .encode r (storeStream out s)
  | decode (out : List Byte) (r : Option Raise) (hout : out.length ≤ s.params.outCap) :
      CommandEffect s .decode r (storeSymbols out s)

theorem codeEntry_code_length (e : CodeEntry) : e.code.length = e.len.toNat := by simp [CodeEntry.code]

/-- ENCODE emits no more than BIT_CAP bits (43_encoder.md R182). -/
theorem encodeLoop_length_le {codes : Vector CodeEntry 256} {bitCap i : Nat} {syms : List Byte} {out : List Bool}
    (h : out.length ≤ bitCap) : (encodeLoop codes bitCap syms i out).1.length ≤ bitCap := by
  induction syms generalizing i out with
  | nil => exact h
  | cons b syms ih =>
    rw [encodeLoop]
    split
    · exact h
    · split
      · exact h
      · next hfit => exact ih (by rw [List.length_append, codeEntry_code_length]; omega)

/-- DECODE emits no more than OUT_CAP symbols (44_decoder.md R195). -/
theorem decodeLoop_length_le {arena : Vector Node 511} {root cur : NodeIdx} {outCap i start : Nat} {bits : List Bool}
    {out : List Byte} (h : out.length ≤ outCap) :
    (decodeLoop arena root outCap bits i cur out start).1.length ≤ outCap := by
  induction bits generalizing i cur out start with
  | nil => exact h
  | cons b bits ih =>
    rw [decodeLoop]
    split
    · exact h
    · split
      · exact ih h
      · split
        · exact h
        · next hfull => exact ih (by rw [List.length_append, List.length_singleton]; omega)

/-- What a command that answers a next state did. -/
theorem exec_effect {i : Instr} (h : exec i s = .next t) : ∃ r u, CommandEffect s i r u ∧ t = complete r u := by
  cases i with
  | count =>
    obtain ⟨-, rfl⟩ | ⟨-, syms, -, rfl⟩ := execCount_cases h
    · exact ⟨_, _, .fails _ _, rfl⟩
    · exact ⟨_, _, .count _, rfl⟩
  | build =>
    obtain ⟨-, rfl⟩ | ⟨T, hT, rfl⟩ := execBuild_cases h
    · exact ⟨_, _, .buildFails _, rfl⟩
    · exact ⟨_, _, .build T hT, rfl⟩
  | assign =>
    obtain ⟨-, rfl⟩ | ⟨hv, codes, hc, rfl⟩ := execAssign_cases h
    · exact ⟨_, _, .fails _ _, rfl⟩
    · exact ⟨_, _, .assign codes hv hc, rfl⟩
  | encode =>
    obtain ⟨-, rfl⟩ | ⟨-, -, rfl⟩ | ⟨-, -, syms, out, r, -, hloop, rfl⟩ := execEncode_cases h
    · exact ⟨_, _, .fails _ _, rfl⟩
    · exact ⟨_, _, .fails _ _, rfl⟩
    · have hout := encodeLoop_length_le (codes := s.codes) (i := 0) (syms := syms) (out := []) (Nat.zero_le s.params.bitCap)
      rw [hloop] at hout
      exact ⟨_, _, .encode out r hout, rfl⟩
  | decode =>
    obtain ⟨-, rfl⟩ | ⟨-, -, rfl⟩ | ⟨-, -, bits, out, r, -, hloop, rfl⟩ := execDecode_cases h
    · exact ⟨_, _, .fails _ _, rfl⟩
    · exact ⟨_, _, .fails _ _, rfl⟩
    · have hout := decodeLoop_length_le (arena := s.arena) (root := s.root) (cur := s.root) (i := 0) (start := 0) (bits := bits)
        (out := []) (Nat.zero_le s.params.outCap)
      rw [hloop] at hout
      exact ⟨_, _, .decode out r hout, rfl⟩
  | illegal c => cases h; exact ⟨_, _, .fails _ _, rfl⟩

theorem exec_params {i : Instr} (h : exec i s = .next t) : t.params = s.params := by
  obtain ⟨r, u, hu, rfl⟩ := exec_effect h
  cases hu <;> rfl

theorem exec_engine {i : Instr} (h : exec i s = .next t) : t.engine = .idle := by
  obtain ⟨r, u, -, rfl⟩ := exec_effect h
  rfl

theorem exec_wdrop {i : Instr} (h : exec i s = .next t) : t.wdrop = s.wdrop := by
  obtain ⟨r, u, hu, rfl⟩ := exec_effect h
  cases hu <;> rfl

/-- Of the commands only COUNT changes FREQ, and then it clears both validity flags. -/
theorem exec_freq {i : Instr} (h : exec i s = .next t) :
    t.freq = s.freq ∨ (i = .count ∧ t.treeValid = false ∧ t.codesValid = false) := by
  obtain ⟨r, u, hu, rfl⟩ := exec_effect h
  cases hu with
  | count freq => exact .inr ⟨rfl, rfl, rfl⟩
  | fails | buildFails | build | assign | encode | decode => exact .inl rfl

/-- Of the commands only a BUILD without error sets TREE_VALID. -/
theorem exec_sets_treeValid {i : Instr} (h : exec i s = .next t) (hs : s.treeValid = false) (ht : t.treeValid = true) :
    i = .build ∧ t.err = none := by
  obtain ⟨r, u, hu, rfl⟩ := exec_effect h
  cases hu with
  | build T hT => exact ⟨rfl, rfl⟩
  | count freq => cases ht
  | buildFails e => cases ht
  | fails | assign | encode | decode => exact absurd (hs.symm.trans ht) Bool.false_ne_true

/-- Of the commands only an ASSIGN without error sets CODES_VALID. -/
theorem exec_sets_codesValid {i : Instr} (h : exec i s = .next t) (hs : s.codesValid = false) (ht : t.codesValid = true) :
    i = .assign ∧ t.err = none := by
  obtain ⟨r, u, hu, rfl⟩ := exec_effect h
  cases hu with
  | assign codes hv hc => exact ⟨rfl, rfl⟩
  | count freq => cases ht
  | buildFails e => cases ht
  | build T hT => cases ht
  | fails | encode | decode => exact absurd (hs.symm.trans ht) Bool.false_ne_true

/-! Host accesses and resets. -/

@[simp] theorem softReset_params (s : State) : (softReset s).params = s.params := by
  obtain h | h | h := softReset_cases s <;> rw [h] <;> rfl

/-- What a host write of `v` at offset `a` can do, and at which offsets (45_host_interface.md R212, R214, R219 to R221). -/
inductive WriteEffect (a v : Word) (s : State) : State → Prop
  | ignored : WriteEffect a v s s
  | ie (b : Bool) : WriteEffect a v s (setIe b s)
  | reset (ha : wordOffset a = 0x004) (hv : v.getLsbD 1 = true) : WriteEffect a v s (softReset s)
  | status : WriteEffect a v s (writeStatus v s)
  | dropped {c : Word} (hb : s.engine = .busy c) (hctrl : wordOffset a ≠ 0x004) (hstatus : wordOffset a ≠ 0x008) :
      WriteEffect a v s (dropWrite s)
  | issued (ha : wordOffset a = 0x00C) : WriteEffect a v s (issue v s)
  | inLen : WriteEffect a v s (setInLen v s)
  | bitLen : WriteEffect a v s (setBitLen v s)
  | freq (hi : s.engine = .idle) (hlo : 0x00400 ≤ wordOffset a) (hhi : wordOffset a < 0x00800) (b : Byte) :
      WriteEffect a v s (writeFreq b v s)
  | sym (w : Nat) (hw : 4 * w < s.params.symCap) : WriteEffect a v s (storeWord (symBase + 4 * w) v s)
  | bit (w : Nat) (hw : 32 * w < s.params.bitCap) : WriteEffect a v s (storeWord (bitBase + 4 * w) v s)

theorem writeCtrl_effect {a : Word} (ha : wordOffset a = 0x004) (v : Word) (s : State) : WriteEffect a v s (writeCtrl v s) := by
  unfold writeCtrl
  split
  · next hv => exact .reset ha hv
  · exact .ie _

theorem writeBusy_effect {c : Word} (hb : s.engine = .busy c) (a v : Word) : WriteEffect a v s (writeBusy v s (targetOf a)) := by
  by_cases hc : targetOf a = .reg .ctrl
  · rw [hc]
    exact writeCtrl_effect (targetOf_eq_reg_iff.1 hc) v s
  · by_cases hs : targetOf a = .reg .status
    · rw [hs]
      exact .status
    · rw [writeBusy_of_ne hc hs]
      exact .dropped hb (fun ha => hc (targetOf_eq_reg_iff.2 ha)) (fun ha => hs (targetOf_eq_reg_iff.2 ha))

theorem writeIdle_effect (hi : s.engine = .idle) (a v : Word) : WriteEffect a v s (writeIdle v s (targetOf a)) := by
  cases hT : targetOf a with
  | reg r =>
    have ha := targetOf_eq_reg_iff.1 hT
    cases r with
    | ctrl => exact writeCtrl_effect ha v s
    | status => exact .status
    | cmd => exact .issued ha
    | inLen => exact .inLen
    | bitLen => exact .bitLen
    | id | errInfo | outLen | nleaf | nnode | root | capSym | capBit | capOut => exact .ignored
  | freq b =>
    obtain ⟨hlo, hhi⟩ := wordOffset_of_targetOf_freq hT
    exact .freq hi hlo hhi b
  | sym w =>
    rw [writeIdle]
    split
    · next hw => exact .sym w hw
    · exact .ignored
  | bit w =>
    rw [writeIdle]
    split
    · next hw => exact .bit w hw
    · exact .ignored
  | node | code | out | reserved => exact .ignored

/-- `hostWrite_cases`, with the offsets of each case. -/
theorem hostWrite_effect (a v : Word) (s : State) : WriteEffect a v s (hostWrite a v s) := by
  cases he : s.engine with
  | idle => rw [hostWrite_of_idle he]; exact writeIdle_effect he a v
  | busy c => rw [hostWrite_of_busy he]; exact writeBusy_effect he a v

/-! Steps (45_host_interface.md R210). -/

/-- What a step can be: an event that changes the model's own fields at most, the completion of the running command, a host write,
or a hard reset. -/
inductive StepEffect (s : State) : State → Prop
  | quiet (q : List Event) (rdata : Option Word) (draws : Nat) :
      StepEffect s { s with inputs := q, rdata := rdata, draws := draws }
  | completes {c : Word} {t : State} (hb : s.engine = .busy c) (hexec : exec (decode c) { s with inputs := t.inputs } = .next t) :
      StepEffect s t
  | writes {a v : Word} {q : List Event} {t : State} (hq : s.inputs = .hostWrite a v :: q)
      (hw : WriteEffect a v { s with inputs := q } t) : StepEffect s t
  | resets {q : List Event} (hq : s.inputs = .hardReset :: q) : StepEffect s (hardReset { s with inputs := q })

theorem hostRead_effect (a : Word) (q : List Event) (s : State) : StepEffect s (hostRead a (setInputs q s)) := by
  unfold hostRead
  split
  · exact .quiet q _ _
  · exact .quiet q _ _

theorem completeStep_effect {q : List Event} (h : completeStep (setInputs q s) = .next t) : StepEffect s t := by
  obtain ⟨-, rfl⟩ | ⟨c, hb, hexec⟩ := completeStep_cases h
  · exact .quiet q _ _
  · refine .completes hb ?_
    rw [exec_inputs hexec]
    exact hexec

/-- `step_cases`, with the event of each case and, of a completion, the command. -/
theorem step_effect (h : step s = .next t) : StepEffect s t := by
  unfold step runNext at h
  split at h
  · next hq => exact completeStep_effect (q := []) (by rw [← hq]; exact h)
  · next e q hq =>
    cases e with
    | hostRead a => cases h; exact hostRead_effect a q s
    | hostWrite a v => cases h; exact .writes hq (hostWrite_effect a v _)
    | wait =>
      rw [runEvent] at h
      split at h
      · exact completeStep_effect h
      · cases h; exact hostRead_effect _ q s
    | complete => exact completeStep_effect h
    | hardReset => cases h; exact .resets hq

end Sys2Proof.Machine
end

section
/-! SUPPORT. Every step keeps the invariant: one lemma per shared operation, then per command, per host access, per step. -/

namespace Sys2Proof.Machine

variable {s t : State}

/-- A write keeps memory inside the buffers when its bytes lie there. -/
theorem memWrite_stores {p : Params} {m : Memory} {base : Nat} {bs : List Byte} (h : ∀ c ∈ m, Params.stores p c.1)
    (hbs : ∀ a, base ≤ a → a < base + bs.length → Params.stores p a) : ∀ c ∈ memWrite m base bs, Params.stores p c.1 := by
  intro c hc
  obtain hc | ⟨hlo, hhi⟩ := mem_memWrite hc
  · exact h c hc
  · exact hbs c.1 hlo hhi

theorem streamBytes_length (out : List Bool) : (streamBytes out).length = 4 * ((out.length + 31) / 32) := by
  simp [streamBytes, wordsFor, List.length_flatMap, Nat.mul_comm]

namespace Inv

/-! Single updates. -/

theorem complete (hi : Inv s) (r : Option Raise) : Inv (complete r s) :=
  { hi with
    busyFresh := nofun
    infoZero := fun h => by
      obtain rfl := Option.map_eq_none_iff.1 h
      rfl }

theorem issue (hi : Inv s) (c : Word) : Inv (issue c s) :=
  { hi with
    busyFresh := fun _ hd => ⟨rfl, rfl, Engine.busy.inj hd⟩
    infoZero := fun _ => rfl }

theorem writeStatus (hi : Inv s) (v : Word) : Inv (writeStatus v s) :=
  { hi with
    busyFresh := fun c hc => by
      obtain ⟨hd, he, hl⟩ := hi.busyFresh c hc
      exact ⟨by simp [hd], he, hl⟩ }

/-- Any FREQ table goes with both validity flags 0 (10_state.md R47). -/
theorem invalidate_setFreq (hi : Inv s) (freq : Vector Word 256) : Inv (invalidate (setFreq freq s)) :=
  { hi with
    codesNeedTree := nofun
    treeBuilt := nofun
    codesAssigned := nofun }

theorem resetRegisters (hi : Inv s) : Inv (resetRegisters s) :=
  { params := hi.params
    memWf := hi.memWf
    memStores := hi.memStores
    busyFresh := nofun
    infoZero := fun _ => rfl
    codesNeedTree := nofun
    treeBuilt := nofun
    codesAssigned := nofun }

theorem hardReset (hi : Inv s) : Inv (hardReset s) :=
  { hi.resetRegisters with
    memWf := List.Pairwise.nil
    memStores := nofun }

/-- A soft reset forgets bytes of one buffer at most. -/
theorem softReset (hi : Inv s) : Inv (softReset s) := by
  have herase (base n : Nat) : Inv { s with mem := memErase s.mem base n } :=
    { hi with
      memWf := memErase_wf hi.memWf base n
      memStores := fun c hc => hi.memStores c (mem_memErase hc) }
  obtain h | h | h := softReset_cases s
  · rw [h]
    exact hi.resetRegisters
  · rw [h]
    exact { (herase bitBase (s.params.bitCap / 8)).resetRegisters with }
  · rw [h]
    exact { (herase outBase s.params.outCap).resetRegisters with }

/-- Bytes stored inside the buffers keep memory canonical and inside the buffers. -/
theorem memWrite (hi : Inv s) {base : Nat} {bs : List Byte}
    (hbs : ∀ a, base ≤ a → a < base + bs.length → Params.stores s.params a) : Inv { s with mem := memWrite s.mem base bs } :=
  { hi with
    memWf := memWrite_wf hi.memWf base bs
    memStores := memWrite_stores hi.memStores hbs }

/-! Commands. -/

theorem of_commandEffect {i : Instr} {r : Option Raise} (hi : Inv s) (h : CommandEffect s i r t) : Inv t := by
  obtain ⟨⟨hsym, -, -⟩, ⟨hbit, -, -⟩, hout, -, -⟩ := hi.params
  cases h with
  | fails => exact hi
  | count freq => exact hi.invalidate_setFreq freq
  | buildFails e =>
    exact { hi with
      codesNeedTree := nofun
      treeBuilt := nofun
      codesAssigned := nofun }
  | build T hT =>
    exact { hi with
      codesNeedTree := nofun
      treeBuilt := fun _ => ⟨_, hT⟩
      codesAssigned := nofun }
  | assign codes hv hc =>
    exact { hi with
      codesNeedTree := fun _ => hv
      codesAssigned := fun _ => hc }
  | encode out r hlen =>
    have hmem := hi.memWrite (base := bitBase) (bs := streamBytes out) fun a hlo hhi => by
      rw [streamBytes_length] at hhi
      exact .inr (.inl (by omega))
    exact { hmem with }
  | decode out r hlen =>
    have hmem := hi.memWrite (base := outBase) (bs := out) fun a hlo hhi => .inr (.inr (by omega))
    exact { hmem with }

theorem exec {i : Instr} (hi : Inv s) (h : exec i s = .next t) : Inv t := by
  obtain ⟨r, u, hu, rfl⟩ := exec_effect h
  exact (hi.of_commandEffect hu).complete r

/-! Host writes and steps. -/

theorem of_writeEffect {a v : Word} (hi : Inv s) (h : WriteEffect a v s t) : Inv t := by
  obtain ⟨⟨hsym, -, -⟩, ⟨hbit, -, -⟩, -⟩ := hi.params
  cases h with
  | ignored => exact hi
  | reset => exact hi.softReset
  | status => exact hi.writeStatus v
  | issued => exact hi.issue v
  | freq => exact hi.invalidate_setFreq _
  | sym w hw => exact hi.memWrite fun x hlo hhi => .inl (by rw [bytesOfWord_length] at hhi; omega)
  | bit w hw => exact hi.memWrite fun x hlo hhi => .inr (.inl (by rw [bytesOfWord_length] at hhi; omega))
  | ie | dropped | inLen | bitLen => exact { hi with }

theorem of_stepEffect (hi : Inv s) (h : StepEffect s t) : Inv t := by
  have hq (q : List Event) : Inv { s with inputs := q } := { hi with }
  cases h with
  | quiet => exact { hi with }
  | completes hb hexec => exact (hq _).exec hexec
  | writes _ hw => exact (hq _).of_writeEffect hw
  | resets => exact (hq _).hardReset

end Inv

/-- Settles O56: by what a step can be. -/
theorem everyStepKeepsTheInvariant : Obligations.EveryStepKeepsTheInvariant := fun _ _ hi h => hi.of_stepEffect (step_effect h)

end Sys2Proof.Machine
end

section
/-! SUPPORT. The statements of 10_state.md about every step: what sets each flag, what changes FREQ, and the parameters. -/

namespace Sys2Proof.Machine

variable {s t : State}

/-! Host writes. -/

namespace WriteEffect

variable {a v : Word} (h : WriteEffect a v s t)
include h

theorem params : t.params = s.params := by
  cases h with
  | reset => exact softReset_params s
  | ignored | ie | status | dropped | issued | inLen | bitLen | freq | sym | bit => rfl

theorem sets_busy (hs : s.engine = .idle) (ht : t.engine ≠ .idle) : wordOffset a = 0x00C ∧ t.engine = .busy v := by
  cases h with
  | issued ha => exact ⟨ha, rfl⟩
  | reset => exact absurd rfl ht
  | ignored | ie | status | dropped | inLen | bitLen | freq | sym | bit => exact absurd hs ht

theorem done_of_done (ht : t.done = true) : s.done = true := by
  cases h with
  | status => exact (Bool.and_eq_true_iff.1 ht).1
  | reset | issued => cases ht
  | ignored | ie | dropped | inLen | bitLen | freq | sym | bit => exact ht

theorem err_eq_none (hs : s.err = none) : t.err = none := by
  cases h with
  | reset | issued => rfl
  | ignored | ie | status | dropped | inLen | bitLen | freq | sym | bit => exact hs

theorem sets_wdrop (hs : s.wdrop = false) (ht : t.wdrop = true) :
    ∃ c, s.engine = .busy c ∧ wordOffset a ≠ 0x004 ∧ wordOffset a ≠ 0x008 := by
  cases h with
  | dropped hb hctrl hstatus => exact ⟨_, hb, hctrl, hstatus⟩
  | reset => cases ht
  | status => simp [hs] at ht
  | ignored | ie | issued | inLen | bitLen | freq | sym | bit => exact absurd (hs.symm.trans ht) Bool.false_ne_true

theorem treeValid_of_treeValid (ht : t.treeValid = true) : s.treeValid = true := by
  cases h with
  | reset | freq => cases ht
  | ignored | ie | status | dropped | issued | inLen | bitLen | sym | bit => exact ht

theorem codesValid_of_codesValid (ht : t.codesValid = true) : s.codesValid = true := by
  cases h with
  | reset | freq => cases ht
  | ignored | ie | status | dropped | issued | inLen | bitLen | sym | bit => exact ht

/-- Only a soft reset and the FREQ window change FREQ, and both clear the validity flags. -/
theorem changes_freq (hf : t.freq ≠ s.freq) : t.treeValid = false ∧ t.codesValid = false ∧
    ((wordOffset a = 0x004 ∧ v.getLsbD 1 = true) ∨
      (s.engine = .idle ∧ 0x00400 ≤ wordOffset a ∧ wordOffset a < 0x00800)) := by
  cases h with
  | reset ha hv => exact ⟨rfl, rfl, .inl ⟨ha, hv⟩⟩
  | freq hi hlo hhi => exact ⟨rfl, rfl, .inr ⟨hi, hlo, hhi⟩⟩
  | ignored | ie | status | dropped | issued | inLen | bitLen | sym | bit => exact absurd rfl hf

end WriteEffect

/-! Steps. -/

theorem step_params (h : step s = .next t) : t.params = s.params := by
  cases step_effect h with
  | completes _ hexec => exact (exec_params hexec :)
  | writes _ hw => exact hw.params
  | quiet | resets => rfl

theorem step_sets_busy (h : step s = .next t) (hs : s.engine = .idle) (ht : t.engine ≠ .idle) :
    ∃ a v q, s.inputs = .hostWrite a v :: q ∧ wordOffset a = 0x00C ∧ t.engine = .busy v := by
  cases step_effect h with
  | quiet => exact absurd hs ht
  | completes _ hexec => exact absurd (exec_engine hexec) ht
  | writes hq hw => exact ⟨_, _, _, hq, hw.sets_busy hs ht⟩
  | resets => exact absurd rfl ht

/-- DONE and an error come from completions only. -/
theorem step_reports (h : step s = .next t) (hr : (s.done = false ∧ t.done = true) ∨ (s.err = none ∧ t.err ≠ none)) :
    ∃ c, s.engine = .busy c ∧ exec (decode c) { s with inputs := t.inputs } = .next t := by
  cases step_effect h with
  | completes hb hexec => exact ⟨_, hb, hexec⟩
  | quiet =>
    obtain ⟨hs, ht⟩ | ⟨hs, ht⟩ := hr
    · exact absurd (hs.symm.trans ht) Bool.false_ne_true
    · exact absurd hs ht
  | writes _ hw =>
    obtain ⟨hs, ht⟩ | ⟨hs, ht⟩ := hr
    · exact absurd (hs.symm.trans (hw.done_of_done ht)) Bool.false_ne_true
    · exact absurd (hw.err_eq_none hs) ht
  | resets =>
    obtain ⟨-, ht⟩ | ⟨-, ht⟩ := hr
    · cases ht
    · exact absurd rfl ht

theorem step_sets_wdrop (h : step s = .next t) (hs : s.wdrop = false) (ht : t.wdrop = true) :
    ∃ c a v q, s.engine = .busy c ∧ s.inputs = .hostWrite a v :: q ∧ wordOffset a ≠ 0x004 ∧ wordOffset a ≠ 0x008 := by
  cases step_effect h with
  | quiet => exact absurd (hs.symm.trans ht) Bool.false_ne_true
  | completes _ hexec => exact absurd (hs.symm.trans ((exec_wdrop hexec).symm.trans ht)) Bool.false_ne_true
  | writes hq hw =>
    obtain ⟨c, hb, hctrl, hstatus⟩ := hw.sets_wdrop hs ht
    exact ⟨c, _, _, _, hb, hq, hctrl, hstatus⟩
  | resets => cases ht

theorem step_sets_treeValid (h : step s = .next t) (hs : s.treeValid = false) (ht : t.treeValid = true) :
    ∃ c, s.engine = .busy c ∧ decode c = .build ∧ t.err = none ∧ exec .build { s with inputs := t.inputs } = .next t := by
  cases step_effect h with
  | quiet => exact absurd (hs.symm.trans ht) Bool.false_ne_true
  | completes hb hexec =>
    obtain ⟨hbuild, herr⟩ := exec_sets_treeValid hexec hs ht
    exact ⟨_, hb, hbuild, herr, hbuild ▸ hexec⟩
  | writes _ hw => exact absurd (hs.symm.trans (hw.treeValid_of_treeValid ht)) Bool.false_ne_true
  | resets => cases ht

theorem step_sets_codesValid (h : step s = .next t) (hs : s.codesValid = false) (ht : t.codesValid = true) :
    ∃ c, s.engine = .busy c ∧ decode c = .assign ∧ t.err = none ∧ exec .assign { s with inputs := t.inputs } = .next t := by
  cases step_effect h with
  | quiet => exact absurd (hs.symm.trans ht) Bool.false_ne_true
  | completes hb hexec =>
    obtain ⟨hassign, herr⟩ := exec_sets_codesValid hexec hs ht
    exact ⟨_, hb, hassign, herr, hassign ▸ hexec⟩
  | writes _ hw => exact absurd (hs.symm.trans (hw.codesValid_of_codesValid ht)) Bool.false_ne_true
  | resets => cases ht

/-- Settles O57: one lemma per flag. -/
theorem flagsAreSetOnlyAsListed : Obligations.FlagsAreSetOnlyAsListed := fun _ _ h =>
  ⟨step_sets_busy h, step_reports h, step_sets_wdrop h, step_sets_treeValid h, step_sets_codesValid h⟩

/-- Settles O58: by what a step can be. -/
theorem freqChangesInvalidate : Obligations.FreqChangesInvalidate := by
  intro s t h hf
  cases step_effect h with
  | quiet => exact absurd rfl hf
  | completes hb hexec =>
    obtain hkept | ⟨hcount, htree, hcodes⟩ := exec_freq hexec
    · exact absurd hkept hf
    · exact ⟨htree, hcodes, .inl ⟨_, hb, hcount, hcount ▸ hexec⟩⟩
  | writes hq hw =>
    obtain ⟨htree, hcodes, hwhere⟩ := hw.changes_freq hf
    exact ⟨htree, hcodes, .inr (.inr ⟨_, _, _, hq, hwhere⟩)⟩
  | resets hq => exact ⟨rfl, rfl, .inr (.inl ⟨_, hq⟩)⟩

/-- Settles O59. -/
theorem parametersNeverChange : Obligations.ParametersNeverChange := fun _ _ h => step_params h

end Sys2Proof.Machine
end

section
/-! SUPPORT. The code table of ASSIGN (42_code_assigner.md R170 to R173), symbol by symbol: the code of a symbol in a tree of BUILD, as a
path below ROOT and as an entry of the CODE table. -/

namespace Sys2Proof.Machine

variable {s : State}

theorem codeAt_codeSet (codes : Vector CodeEntry 256) (a b : Byte) (e : CodeEntry) :
    codeAt (codeSet codes a e) b = if a = b then e else codeAt codes b := by
  simp [codeAt, codeSet, Vector.getElem_set, BitVec.toNat_inj]

theorem codeAt_replicate (b : Byte) : codeAt (Vector.replicate 256 CodeEntry.none) b = CodeEntry.none := by
  simp [codeAt]

@[simp] theorem ofCode_present (p : List Bool) : (CodeEntry.ofCode p).present = true := rfl

/-- BUILD makes one leaf per symbol (41_tree_builder.md R151). -/
theorem leafSymbols_nodup (freq : Vector Word 256) : (leafSymbols freq).Nodup := by
  refine List.Nodup.filter _ ((List.nodup_map_iff_inj_on List.nodup_range).2 fun i hi j hj h => ?_)
  have hmod := congrArg BitVec.toNat h
  rw [List.mem_range] at hi hj
  rwa [BitVec.toNat_ofNat, BitVec.toNat_ofNat, Nat.mod_eq_of_lt hi, Nat.mod_eq_of_lt hj] at hmod

namespace CodeTree

/-- The path to the leaf of a symbol; to the last such leaf that the traversal comes to, which writes the entry. -/
def path (b : Byte) : CodeTree → Option (List Bool)
  | .leaf a => if a = b then some [] else none
  | .node l r => ((r.path b).map (true :: ·)).or ((l.path b).map (false :: ·))

theorem path_eq_none {b : Byte} {t : CodeTree} (h : b ∉ t.symbols) : t.path b = none := by
  induction t with
  | leaf a => exact if_neg fun hab => h (by simp [symbols, hab])
  | node l r ihl ihr =>
    simp only [symbols, List.mem_append, not_or] at h
    simp [path, ihl h.1, ihr h.2]

theorem mem_symbols_of_path {b : Byte} {p : List Bool} {t : CodeTree} (h : t.path b = some p) : b ∈ t.symbols := by
  by_contra hb
  cases (path_eq_none hb).symm.trans h

theorem symbols_length_pos (t : CodeTree) : 0 < t.symbols.length := by
  have := t.size_add_one
  omega

/-- A path has a leaf beside it at every bit (42_code_assigner.md R173). -/
theorem path_length_lt {b : Byte} {p : List Bool} {t : CodeTree} (h : t.path b = some p) : p.length < t.symbols.length := by
  induction t generalizing p with
  | leaf a =>
    obtain ⟨-, rfl⟩ : a = b ∧ [] = p := by simpa [path] using h
    simp [symbols]
  | node l r ihl ihr =>
    have hl := l.symbols_length_pos
    have hr := r.symbols_length_pos
    rw [symbols, List.length_append]
    obtain h | ⟨-, h⟩ := Option.or_eq_some_iff.1 h
    · obtain ⟨q, hq, rfl⟩ := Option.map_eq_some_iff.1 h
      have := ihr hq
      simp only [List.length_cons]
      omega
    · obtain ⟨q, hq, rfl⟩ := Option.map_eq_some_iff.1 h
      have := ihl hq
      simp only [List.length_cons]
      omega

/-- The traversal writes the entry of every symbol of the tree, and no other. -/
theorem codeAt_assign (t : CodeTree) (b : Byte) (p : List Bool) (codes : Vector CodeEntry 256) :
    codeAt (t.assign p codes) b = ((t.path b).map (fun q => CodeEntry.ofCode (p ++ q))).getD (codeAt codes b) := by
  induction t generalizing p codes with
  | leaf a =>
    rw [assign, codeAt_codeSet, path]
    split <;> simp
  | node l r ihl ihr =>
    rw [assign, ihr, ihl, path]
    cases r.path b with
    | some q => simp
    | none => cases l.path b <;> simp

/-- With one leaf per symbol, the bit at a node tells which side a symbol is on. -/
theorem path_node_eq_some_iff {l r : CodeTree} (h : (CodeTree.node l r).symbols.Nodup) {b : Byte} {c : Bool} {p : List Bool} :
    (CodeTree.node l r).path b = some (c :: p) ↔ (if c then r else l).path b = some p := by
  obtain ⟨-, -, hdisj⟩ := List.nodup_append.1 h
  rw [path]
  cases c with
  | true => cases hr : r.path b <;> simp [hr]
  | false =>
    cases hr : r.path b with
    | none => simp
    | some q =>
      have hl : l.path b = none := path_eq_none fun hb => hdisj b hb b (mem_symbols_of_path hr) rfl
      simp [hl]

/-- Walking down the arena from a node is following the path in the tree below it. -/
theorem walk_eq_leaf_iff {arena : Vector Node 511} {t : CodeTree} {n : NodeIdx} (ht : t.IsAt arena n) (h : t.symbols.Nodup)
    (p : List Bool) (b : Byte) :
    (∃ m, walk arena n p = some m ∧ (nodeAt arena m).isLeaf = true ∧ (nodeAt arena m).symbol = b) ↔ t.path b = some p := by
  induction t generalizing n p with
  | leaf a =>
    obtain ⟨w, hw⟩ := ht
    cases p with
    | nil => simp [walk, path, hw, Node.isLeaf, Node.symbol]
    | cons c p => simp [walk, path, hw]
  | node l r ihl ihr =>
    obtain ⟨i, j, w, hw, hl, hr⟩ := ht
    obtain ⟨hnl, hnr, -⟩ := List.nodup_append.1 h
    cases p with
    | nil => simp [walk, path, hw, Node.isLeaf]
    | cons c p =>
      rw [path_node_eq_some_iff h]
      cases c with
      | true => simpa [walk, hw] using ihr hr hnr p
      | false => simpa [walk, hw] using ihl hl hnl p

/-- The code of a symbol: its path, or "0" for a leaf root (42_code_assigner.md R171, R172). -/
def code (b : Byte) : CodeTree → Option (List Bool)
  | .leaf a => if a = b then some singleLeafCode else none
  | .node l r => (CodeTree.node l r).path b

/-- `CodeOf`, read off the tree. -/
theorem codeOf_iff {arena : Vector Node 511} {t : CodeTree} {root : NodeIdx} (ht : t.IsAt arena root) (h : t.symbols.Nodup)
    {p : List Bool} {b : Byte} : CodeOf arena root p b ↔ t.code b = some p := by
  cases t with
  | leaf a =>
    obtain ⟨w, hw⟩ := ht
    simp [CodeOf, code, singleLeafCode, hw, Node.isLeaf, Node.symbol, and_comm, eq_comm]
  | node l r =>
    have ⟨i, j, w, hw, _, _⟩ := ht
    rw [CodeOf, if_neg (by simp [hw, Node.isLeaf])]
    exact walk_eq_leaf_iff ht h p b

theorem code_length_le {t : CodeTree} (h : t.symbols.length ≤ 256) {b : Byte} {p : List Bool} (hp : t.code b = some p) :
    p.length ≤ 255 := by
  cases t with
  | leaf a =>
    obtain ⟨-, rfl⟩ : a = b ∧ singleLeafCode = p := by simpa [code] using hp
    decide
  | node l r => exact Nat.le_of_lt_succ ((path_length_lt hp).trans_le h)

/-- The CODE table of a tree, entry by entry. -/
theorem codeAt_codeTable (t : CodeTree) (b : Byte) :
    codeAt t.codeTable b = ((t.code b).map CodeEntry.ofCode).getD CodeEntry.none := by
  cases t with
  | leaf a =>
    rw [codeTable, codeAt_codeSet, codeAt_replicate, code]
    split <;> rfl
  | node l r => rw [codeTable, codeAt_assign, codeAt_replicate, code]; rfl

end CodeTree

/-- Bits past the end of a code are 0 (10_state.md R53). -/
theorem getLsbD_ofCode_of_le {p : List Bool} {j : Nat} (hp : p.length ≤ 255) (hj : (CodeEntry.ofCode p).len.toNat ≤ j) :
    (CodeEntry.ofCode p).bits.getLsbD j = false := by
  have hlen : (CodeEntry.ofCode p).len.toNat = p.length := by
    rw [CodeEntry.ofCode, BitVec.toNat_ofNat, Nat.mod_eq_of_lt (by omega)]
  rw [hlen] at hj
  simp [CodeEntry.ofCode, hj]

/-- In a state that meets the invariant with TREE_VALID = 1, a tree of at most 256 leaves, with different symbols, lies below ROOT,
and ASSIGN computes its CODE table. -/
theorem Inv.exists_codeTree (hi : Inv s) (hv : s.treeValid = true) :
    ∃ t : CodeTree, t.IsAt s.arena s.root ∧ t.symbols.Nodup ∧ t.symbols.length ≤ 256 ∧
      assignCodes s.arena s.root = some t.codeTable := by
  obtain ⟨picks, hb⟩ := hi.treeBuilt hv
  obtain ⟨t, ht, hperm, hc⟩ := assignCodes_of_buildTree hb
  exact ⟨t, ht, hperm.nodup_iff.2 (leafSymbols_nodup s.freq), hperm.length_eq.trans_le (leafSymbols_length_le s.freq), hc⟩

/-- Settles O20: the CODE table and `CodeOf` both say what the tree below ROOT gives each symbol. -/
theorem assignGivesEveryLeafItsPath : Obligations.AssignGivesEveryLeafItsPath := by
  refine ⟨fun s hi hv => ?_, fun s hv => ?_⟩
  · obtain ⟨t, ht, hnodup, hlen, hc⟩ := hi.exists_codeTree hv
    refine ⟨t.codeTable, ?_, fun b p => ?_, fun b j => ?_, fun b => ?_⟩
    · rw [exec, execAssign, if_neg (by simp [hv]), hc]
      rfl
    · rw [CodeTree.codeOf_iff ht hnodup, CodeTree.codeAt_codeTable]
      cases hb : t.code b with
      | none => simp
      | some q =>
        have hq := code_ofCode q (CodeTree.code_length_le hlen hb)
        simp [hq]
    · rw [CodeTree.codeAt_codeTable]
      cases hb : t.code b with
      | none => simp
      | some q => exact getLsbD_ofCode_of_le (CodeTree.code_length_le hlen hb)
    · rw [CodeTree.codeAt_codeTable]
      cases t.code b with
      | none => simp
      | some q => simp
  · rw [exec, execAssign, if_pos hv]
    rfl

end Sys2Proof.Machine
end

section
/-! SUPPORT. The windows of the address map (20_memory.md R83 to R88): which entry or word an offset selects, the fields and bits of
the word it reads, and what a write of a buffer word stores. -/

namespace Sys2Proof.Machine

variable {s : State} {a : Word} {T : Target}

/-! The offset of an access. -/

/-- Bits 17:2 of an offset give the word it acts on (20_memory.md R80, R90). -/
theorem wordOffset_eq_extractLsb' (a : Word) : wordOffset a = 4 * (a.extractLsb' 2 16).toNat := by
  rw [wordOffset, BitVec.extractLsb'_toNat, Nat.shiftRight_eq_div_pow]
  omega

theorem targetOf_freqWindow {b : Byte} (h : wordOffset a = 0x00400 + 4 * b.toNat) : targetOf a = .freq b := by
  have hb := b.isLt
  unfold targetOf targetOfOffset freqBase
  rw [if_neg (by omega), if_pos (by omega), h, Nat.add_sub_cancel_left, Nat.mul_div_cancel_left _ (by decide),
    BitVec.ofNat_toNat, BitVec.setWidth_eq]

theorem targetOf_nodeWindow {n : NodeIdx} {k : Nat} (hk : k < 4) (h : wordOffset a = 0x02000 + 16 * n.toNat + 4 * k) :
    targetOf a = .node n k := by
  have hn := n.isLt
  rw [targetOf_node (by omega) (by omega), show (wordOffset a - 0x02000) / 16 = n.toNat by omega,
    show (wordOffset a - 0x02000) % 16 / 4 = k by omega, BitVec.ofNat_toNat, BitVec.setWidth_eq]

theorem targetOf_codeWindow {b : Byte} {k : Nat} (hk : k < 16) (h : wordOffset a = 0x04000 + 64 * b.toNat + 4 * k) :
    targetOf a = .code b k := by
  have hb := b.isLt
  rw [targetOf_code (by omega) (by omega), show (wordOffset a - 0x04000) / 64 = b.toNat by omega,
    show (wordOffset a - 0x04000) % 64 / 4 = k by omega, BitVec.ofNat_toNat, BitVec.setWidth_eq]

theorem targetOf_symWindow {w : Nat} (hw : w < 16384) (h : wordOffset a = 0x10000 + 4 * w) : targetOf a = .sym w := by
  rw [targetOf_sym (by omega) (by omega), show (wordOffset a - 0x10000) / 4 = w by omega]

theorem targetOf_bitWindow {w : Nat} (hw : w < 16384) (h : wordOffset a = 0x20000 + 4 * w) : targetOf a = .bit w := by
  rw [targetOf_bit (by omega) (by omega), show (wordOffset a - 0x20000) / 4 = w by omega]

theorem targetOf_outWindow {w : Nat} (h : wordOffset a = 0x30000 + 4 * w) : targetOf a = .out w := by
  rw [targetOf_out (by omega), show (wordOffset a - 0x30000) / 4 = w by omega]

/-! A host access while idle, by its target (45_host_interface.md R211, R212). -/

theorem hostRead_of_target (hi : s.engine = .idle) (ht : targetOf a = T) :
    hostRead a s = { s with rdata := some (readTarget s T) } := by
  rw [hostRead_of_idle hi, ht]
  rfl

theorem hostWrite_of_target (hi : s.engine = .idle) (ht : targetOf a = T) (v : Word) : hostWrite a v s = writeIdle v s T := by
  rw [hostWrite_of_idle hi, ht]

/-- A reserved word reads 0 and ignores writes while idle (20_memory.md R89). -/
theorem hostAccess_of_reserves (hi : s.engine = .idle) (ht : targetOf a = T) (hr : Reserves s.params T) (v : Word) :
    hostRead a s = { s with rdata := some 0 } ∧ hostWrite a v s = s :=
  ⟨by rw [hostRead_of_target hi ht, readTarget_of_reserves hr], by rw [hostWrite_of_target hi ht, writeIdle_of_reserves hr]⟩

/-! Entries of the tables. -/

/-- What FREQ reads after a write of one entry (20_memory.md R83). -/
theorem freqAt_freqSet (freq : Vector Word 256) (b c : Byte) (v : Word) :
    freqAt (freqSet freq b v) c = if b = c then v else freqAt freq c := by
  simp [freqAt, freqSet, Vector.getElem_set, BitVec.toNat_inj]

/-- The number of a word made of two fields is a sum over them. -/
theorem toNat_append_eq_add {m n : Nat} (x : BitVec m) (y : BitVec n) : (x ++ y).toNat = 2 ^ n * x.toNat + y.toNat := by
  rw [BitVec.toNat_append, ← Nat.shiftLeft_add_eq_or_of_lt y.isLt, Nat.shiftLeft_eq, Nat.mul_comm]

/-- LINK: left in bits 8:0, right in bits 24:16, leaf in bit 31 (20_memory.md R84). -/
theorem toNat_nodeWord_link (n : Node) :
    (nodeWord n 0).toNat = n.leftChild.toNat + 2 ^ 16 * n.rightChild.toNat + if n.isLeaf then 2 ^ 31 else 0 := by
  simp only [nodeWord, toNat_append_eq_add]
  cases n.isLeaf <;> simp <;> omega

/-- SYMW is the symbol. -/
theorem toNat_nodeWord_symw (n : Node) : (nodeWord n 1).toNat = n.symbol.toNat := by
  simp only [nodeWord, toNat_append_eq_add]
  simp

/-- WLO is w[31:0]. -/
theorem toNat_nodeWord_wlo (n : Node) : (nodeWord n 2).toNat = n.weight.toNat % 2 ^ 32 := by
  simp [nodeWord]

/-- WHI is w[39:32]. -/
theorem toNat_nodeWord_whi (n : Node) : (nodeWord n 3).toNat = n.weight.toNat / 2 ^ 32 := by
  have h := n.weight.isLt
  simp only [nodeWord, toNat_append_eq_add, BitVec.extractLsb'_toNat, Nat.shiftRight_eq_div_pow, BitVec.toNat_zero]
  omega

/-- CLEN: len in bits 7:0, present in bit 31 (20_memory.md R85). -/
theorem toNat_codeWord_clen (e : CodeEntry) : (codeWord e 0).toNat = e.len.toNat + if e.present then 2 ^ 31 else 0 := by
  simp only [codeWord, toNat_append_eq_add]
  cases e.present <;> simp
  omega

/-- CBITS m holds code bits 32m to 32m+31, the first in bit 31 (20_memory.md R85). -/
theorem getLsbD_codeWord_cbits (e : CodeEntry) {m t : Nat} (hm : m < 8) (ht : t < 32) :
    (codeWord e (m + 1)).getLsbD (31 - t) = e.bits.getLsbD (32 * m + t) := by
  rw [codeWord, if_pos hm, codeBitsWord, getLsbD_bitsOfFn, show 31 - (31 - t) = t by omega,
    decide_eq_true (by omega), Bool.true_and]

/-! Words of the buffers. -/

theorem getLsbD_bufWord (m : Memory) (bg : Background) (x : Nat) {i : Nat} (hi : i < 32) :
    (bufWord m bg x).getLsbD i = (bufByte m bg (x + i / 8)).getLsbD (i % 8) :=
  getLsbD_wordOfBytes _ i hi

/-- Bits 8j+7..8j of a buffer word are its byte `j` (20_memory.md R86, R88). -/
theorem extractLsb'_bufWord (m : Memory) (bg : Background) (x : Nat) {j : Nat} (hj : j < 4) :
    (bufWord m bg x).extractLsb' (8 * j) 8 = bufByte m bg (x + j) := by
  apply BitVec.eq_of_getLsbD_eq
  intro i hi
  rw [BitVec.getLsbD_extractLsb', getLsbD_bufWord m bg x (by omega), show (8 * j + i) / 8 = j by omega,
    show (8 * j + i) % 8 = i by omega]
  simp [hi]

/-- A word stored puts its bits 8j+7..8j in byte `j` (20_memory.md R86). -/
theorem memRead_memWrite_bytesOfWord (m : Memory) (x : Nat) (v : Word) {j : Nat} (hj : j < 4) :
    memRead (memWrite m x (bytesOfWord v)) (x + j) = some (v.extractLsb' (8 * j) 8) := by
  have hlen : j < (bytesOfWord v).length := hj
  rw [memRead_memWrite_inside m x (bytesOfWord v) j hlen, ← List.getElem?_eq_getElem hlen, bytesOfWord_getElem v j hj]

/-- Where BIT(32w+t) lies (20_memory.md R87). -/
theorem bitAddr_window (w : Nat) {t : Nat} (ht : t < 32) : bitAddr (32 * w + t) = bitBase + 4 * w + (31 - t) / 8 := by
  rw [bitAddr, show (32 * w + t) / 32 = w by omega, show (32 * w + t) % 32 = t by omega]

/-- The place of BIT(32w+t) in its byte (20_memory.md R87). -/
theorem bitPos_window (w : Nat) {t : Nat} (ht : t < 32) : bitPos (32 * w + t) = (31 - t) % 8 := by
  rw [bitPos, show (32 * w + t) % 32 = t by omega]

end Sys2Proof.Machine
end

section
/-! SUPPORT. The statements of 20_memory.md about the windows and the offsets of host accesses. -/

namespace Sys2Proof.Machine

/-- Settles O41: the offset selects the entry; a write sets it alone. -/
theorem freqWindow : Obligations.FreqWindow := by
  intro s a v b hi ha
  have ht := targetOf_freqWindow ha
  refine ⟨hostRead_of_target hi ht, freqSet s.freq b v, hostWrite_of_target hi ht v, ?_, fun b' hb => ?_⟩
  · rw [freqAt_freqSet, if_pos rfl]
  · rw [freqAt_freqSet, if_neg hb.symm]

/-- Settles O42: slot 511 is reserved; any other word by the fields of the entry in its form. -/
theorem nodeWindow : Obligations.NodeWindow := by
  intro s a v n k hi hk ha
  have ht := targetOf_nodeWindow hk ha
  refine ⟨hostWrite_of_target hi ht v, _, hostRead_of_target hi ht, ?_⟩
  have hnil : n = nilIdx ↔ n.toNat = 511 := BitVec.toNat_inj.symm
  by_cases hn : n.toNat = 511
  · rw [if_pos hn, readTarget, if_pos (hnil.2 hn)]
    rfl
  · rw [if_neg hn, readTarget, if_neg (mt hnil.1 hn)]
    obtain rfl | rfl | rfl | rfl : k = 0 ∨ k = 1 ∨ k = 2 ∨ k = 3 := by omega
    · rw [toNat_nodeWord_link]
      cases nodeAt s.arena n <;> simp [Node.leftChild, Node.rightChild, Node.isLeaf]
    · rw [toNat_nodeWord_symw]
      cases nodeAt s.arena n <;> rfl
    · rw [toNat_nodeWord_wlo]
      cases nodeAt s.arena n <;> rfl
    · rw [toNat_nodeWord_whi]
      cases nodeAt s.arena n <;> rfl

/-- Settles O43: CLEN, then CBITS m for `k = m + 1`, then reserved words. -/
theorem codeWindow : Obligations.CodeWindow := by
  intro s a v b k hi hk ha
  have ht := targetOf_codeWindow hk ha
  refine ⟨hostWrite_of_target hi ht v, _, hostRead_of_target hi ht, ?_, fun h1 h8 t h32 => ?_, fun h9 => ?_⟩
  · rintro rfl
    exact toNat_codeWord_clen _
  · obtain ⟨m, rfl⟩ := Nat.exists_eq_add_of_le' h1
    exact getLsbD_codeWord_cbits _ (by omega) h32
  · exact readTarget_of_reserves h9

/-- Settles O44: byte by byte below SYM_CAP, reserved past it. -/
theorem symWindow : Obligations.SymWindow := by
  intro s a v w hi hw ha
  have ht := targetOf_symWindow hw ha
  refine ⟨fun hcap => ⟨⟨_, hostRead_of_target hi ht, fun j hj => ?_⟩, memWrite s.mem (symBase + 4 * w) (bytesOfWord v), ?_,
    fun j hj => ?_, fun x hx => ?_⟩, fun hcap => hostAccess_of_reserves hi ht hcap v⟩
  · rw [readTarget, if_pos hcap, extractLsb'_bufWord _ _ _ hj, symAddr, Nat.add_assoc]
  · rw [hostWrite_of_target hi ht, writeIdle, if_pos hcap]
    rfl
  · rw [symAddr, ← Nat.add_assoc, memRead_memWrite_bytesOfWord _ _ _ hj]
  · unfold symAddr at hx
    exact memRead_memWrite_outside _ _ _ x (by rw [bytesOfWord_length]; omega)

/-- Settles O45: BIT(32w+t) is bit (31-t) mod 8 of byte (31-t)/8 of the word, which is bit 31-t of the word. -/
theorem bitWindow : Obligations.BitWindow := by
  intro s a v w hi hw ha
  have ht := targetOf_bitWindow hw ha
  refine ⟨fun hcap => ⟨⟨_, hostRead_of_target hi ht, fun t h32 => ?_⟩, memWrite s.mem (bitBase + 4 * w) (bytesOfWord v), ?_,
    fun t h32 => ?_, fun x hx => memRead_memWrite_outside _ _ _ x hx⟩, fun hcap => hostAccess_of_reserves hi ht hcap v⟩
  · rw [readTarget, if_pos hcap, bitAddr_window w h32, bitPos_window w h32, getLsbD_bufWord _ _ _ (by omega)]
  · rw [hostWrite_of_target hi ht, writeIdle, if_pos hcap]
    rfl
  · rw [bitAddr_window w h32, bitPos_window w h32, memRead_memWrite_bytesOfWord _ _ _ (by omega), Option.map_some,
      BitVec.getLsbD_extractLsb', Nat.div_add_mod]
    simp [Nat.mod_lt]

/-- Settles O46: byte by byte below OUT_CAP, 0 past it. -/
theorem outWindow : Obligations.OutWindow := by
  intro s a v w hi hw ha
  have ht := targetOf_outWindow ha
  refine ⟨hostWrite_of_target hi ht v, fun hcap => ⟨_, hostRead_of_target hi ht, fun j hj => ?_⟩,
    fun hcap => (hostAccess_of_reserves hi ht hcap v).1⟩
  rw [readTarget, if_pos hcap, extractLsb'_bufWord _ _ _ hj, State.outAt, outAddr, Nat.add_assoc]

/-- Settles O48: bits 17:2 give the word offset, and the word offset the target of the access. -/
theorem offsetBitsIgnored : Obligations.OffsetBitsIgnored := by
  intro a b v s h
  have hword : wordOffset a = wordOffset b := by rw [wordOffset_eq_extractLsb', wordOffset_eq_extractLsb', h]
  have htarget : targetOf a = targetOf b := congrArg targetOfOffset hword
  rw [hostRead, hostWrite, htarget]
  exact ⟨rfl, rfl⟩

end Sys2Proof.Machine
end

section
/-! SUPPORT. Command words as numbers: the fields OPC and RSVD, the illegal words, and which command each word stands for
(30_encoding.md R120 to R125). -/

namespace Sys2Proof

theorem opcField_eq_iff (c : Word) (k : Byte) : opcField c = k ↔ c.toNat % 256 = k.toNat := by
  rw [← BitVec.toNat_inj, opcField, BitVec.extractLsb'_toNat, Nat.shiftRight_zero]

theorem rsvdField_eq_zero_iff (c : Word) : rsvdField c = 0#24 ↔ c.toNat / 256 = 0 := by
  have hlt : c.toNat / 256 < 2 ^ 24 := Nat.div_lt_of_lt_mul c.isLt
  rw [← BitVec.toNat_inj, rsvdField, BitVec.extractLsb'_toNat, Nat.shiftRight_eq_div_pow, Nat.mod_eq_of_lt hlt,
    BitVec.toNat_ofNat, Nat.zero_mod]

/-- The command words are 1 to 5; every other word is illegal (30_encoding.md R123, R124). -/
theorem illegalWord_iff (c : Word) : illegalWord c = true ↔ c.toNat = 0 ∨ 6 ≤ c.toNat := by
  have hrsvd : c.extractLsb' 8 24 = 0#24 ↔ c.toNat / 256 = 0 := rsvdField_eq_zero_iff c
  have hopc : c.extractLsb' 0 8 = 0#8 ↔ c.toNat % 256 = 0 := opcField_eq_iff c 0#8
  have hopc6 : 6#8 ≤ c.extractLsb' 0 8 ↔ 6 ≤ c.toNat % 256 := by
    rw [BitVec.le_def, BitVec.extractLsb'_toNat, Nat.shiftRight_zero]
    rfl
  simp only [illegalWord, Bool.or_eq_true, bne_iff_ne, beq_iff_eq, decide_eq_true_eq, ne_eq, hrsvd, hopc, hopc6]
  omega

/-- Decoding gives a well-formed command back from its word. -/
theorem decode_encode {i : Instr} (h : i.wf = true) : decode (encode i) = i := by
  cases i with
  | count => exact Laws.DecodeEncode.count h
  | build => exact Laws.DecodeEncode.build h
  | assign => exact Laws.DecodeEncode.assign h
  | encode => exact Laws.DecodeEncode.encode h
  | decode => exact Laws.DecodeEncode.decode h
  | illegal c => exact Laws.DecodeEncode.illegal c h

/-- Every word is the word of a well-formed command: encoding is onto. -/
theorem exists_encode_eq (c : Word) : ∃ i : Instr, i.wf = true ∧ encode i = c := by
  by_cases hill : illegalWord c = true
  · exact ⟨.illegal c, hill, rfl⟩
  · rw [illegalWord_iff] at hill
    have hc : c = 1#32 ∨ c = 2#32 ∨ c = 3#32 ∨ c = 4#32 ∨ c = 5#32 := by
      simp only [← BitVec.toNat_inj, BitVec.toNat_ofNat]
      omega
    obtain rfl | rfl | rfl | rfl | rfl := hc
    · exact ⟨.count, rfl, rfl⟩
    · exact ⟨.build, rfl, rfl⟩
    · exact ⟨.assign, rfl, rfl⟩
    · exact ⟨.encode, rfl, rfl⟩
    · exact ⟨.decode, rfl, rfl⟩

end Sys2Proof
end

section
/-! SUPPORT. The statements of 30_encoding.md about command words: decoding and encoding agree, and what each word decodes to. -/

namespace Sys2Proof

/-- Settles O2: each word is that of a well-formed command, which decoding gives back. -/
theorem decodeAndEncodeAgree : Obligations.DecodeAndEncodeAgree := by
  refine ⟨fun i => decode_encode, fun c => ?_⟩
  obtain ⟨i, hwf, rfl⟩ := exists_encode_eq c
  rw [decode_encode hwf]
  exact ⟨rfl, hwf⟩

/-- Settles O1: the decoder's tests on RSVD and OPC are those on the number of the word. -/
theorem decodingIsTotalByOpcode : Obligations.DecodingIsTotalByOpcode := by
  intro c
  simp only [decode, decodeOpc, ne_eq, rsvdField_eq_zero_iff, opcField_eq_iff,
    apply_ite (fun o : Option Instr => o.getD (.illegal c)), Option.getD_some, Option.getD_none]
  rfl

/-- Settles O3: a word of the opcode table is that of its command, and an illegal word that of an illegal command. -/
theorem commandWordsDecode : Obligations.CommandWordsDecode := by
  have hill (c : Word) (h : c.toNat = 0 ∨ 6 ≤ c.toNat) : decode c = .illegal c :=
    decode_encode (i := .illegal c) ((illegalWord_iff c).2 h)
  exact ⟨decode_encode (i := .count) rfl, decode_encode (i := .build) rfl, decode_encode (i := .assign) rfl,
    decode_encode (i := .encode) rfl, decode_encode (i := .decode) rfl,
    hill _ (by decide), hill _ (by decide), hill _ (by decide), hill _ (by decide), hill _ (by decide)⟩

end Sys2Proof
end

section
/-! SUPPORT. The frame of the commands (30_encoding.md R122): which pieces of state each command leaves as they were. -/

namespace Sys2Proof.Machine

namespace CommandEffect

variable {s u : State} {i : Instr} {r : Option Raise}

/-- No command writes these: they are no command's operands. -/
theorem keeps_nonoperands (h : CommandEffect s i r u) :
    u.params = s.params ∧ u.inLen = s.inLen ∧ u.ie = s.ie ∧ u.wdrop = s.wdrop ∧ u.lastCmd = s.lastCmd ∧
      u.symBg = s.symBg ∧ u.bitBg = s.bitBg ∧ u.outBg = s.outBg ∧ u.inputs = s.inputs ∧ u.rdata = s.rdata := by
  cases h <;> exact ⟨rfl, rfl, rfl, rfl, rfl, rfl, rfl, rfl, rfl, rfl⟩

theorem keeps_freq (h : CommandEffect s i r u) (hi : i ≠ .count) : u.freq = s.freq := by
  cases h with
  | count => exact absurd rfl hi
  | fails | buildFails | build | assign | encode | decode => rfl

theorem keeps_tree (h : CommandEffect s i r u) (hi : i ≠ .build) :
    u.arena = s.arena ∧ u.nleaf = s.nleaf ∧ u.nnode = s.nnode ∧ u.root = s.root ∧ u.draws = s.draws := by
  cases h with
  | buildFails | build => exact absurd rfl hi
  | fails | count | assign | encode | decode => exact ⟨rfl, rfl, rfl, rfl, rfl⟩

theorem keeps_codes (h : CommandEffect s i r u) (hi : i ≠ .assign) : u.codes = s.codes := by
  cases h with
  | assign => exact absurd rfl hi
  | fails | count | buildFails | build | encode | decode => rfl

theorem keeps_bitLen (h : CommandEffect s i r u) (hi : i ≠ .encode) : u.bitLen = s.bitLen := by
  cases h with
  | encode => exact absurd rfl hi
  | fails | count | buildFails | build | assign | decode => rfl

theorem keeps_outLen (h : CommandEffect s i r u) (hi : i ≠ .decode) : u.outLen = s.outLen := by
  cases h with
  | decode => exact absurd rfl hi
  | fails | count | buildFails | build | assign | encode => rfl

theorem keeps_treeValid (h : CommandEffect s i r u) (hc : i ≠ .count) (hb : i ≠ .build) : u.treeValid = s.treeValid := by
  cases h with
  | count => exact absurd rfl hc
  | buildFails | build => exact absurd rfl hb
  | fails | assign | encode | decode => rfl

theorem keeps_codesValid (h : CommandEffect s i r u) (hc : i ≠ .count) (hb : i ≠ .build) (ha : i ≠ .assign) :
    u.codesValid = s.codesValid := by
  cases h with
  | count => exact absurd rfl hc
  | buildFails | build => exact absurd rfl hb
  | assign => exact absurd rfl ha
  | fails | encode | decode => rfl

/-- Only ENCODE writes bytes of BIT_BUF and only DECODE bytes of OUT_BUF. A stream takes whole words, so it fits because BIT_CAP is
a multiple of 32 (00_scope.md R14). -/
theorem keeps_mem (h : CommandEffect s i r u) (hlegal : s.params.legal) {a : Nat}
    (hbit : ¬(i = .encode ∧ bitBase ≤ a ∧ a < bitBase + s.params.bitCap / 8))
    (hout : ¬(i = .decode ∧ outBase ≤ a ∧ a < outBase + s.params.outCap)) : memRead u.mem a = memRead s.mem a := by
  cases h with
  | encode out r hlen =>
    obtain ⟨-, ⟨hwords, -, -⟩, -⟩ := hlegal
    have haway : ¬(bitBase ≤ a ∧ a < bitBase + s.params.bitCap / 8) := fun ha => hbit ⟨rfl, ha⟩
    exact memRead_memWrite_outside _ _ _ a (by rw [streamBytes_length]; omega)
  | decode out r hlen =>
    have haway : ¬(outBase ≤ a ∧ a < outBase + s.params.outCap) := fun ha => hout ⟨rfl, ha⟩
    exact memRead_memWrite_outside _ _ _ a (by omega)
  | fails | count | buildFails | build | assign => rfl

end CommandEffect

/-- Settles O11: piece by piece of what a command leaves; reporting the outcome writes none of these. -/
theorem commandsWriteOnlyTheirOperands : Obligations.CommandsWriteOnlyTheirOperands := by
  intro i s t hlegal h
  obtain ⟨r, u, hu, rfl⟩ := exec_effect h
  exact ⟨hu.keeps_nonoperands, hu.keeps_freq, hu.keeps_tree, hu.keeps_codes, hu.keeps_bitLen, hu.keeps_outLen,
    hu.keeps_treeValid, hu.keeps_codesValid, fun _ => hu.keeps_mem hlegal⟩

end Sys2Proof.Machine
end

section
/-! SUPPORT. COUNT (40_frequency_counter.md): what the counting loop leaves in FREQ, and the sum and the support of the counts. -/

namespace Sys2Proof.Machine

variable {s t : State}

/-- The loop adds to each count the number of times its symbol occurs (40_frequency_counter.md R140). -/
theorem freqAt_countLoop (syms : List Byte) (freq : Vector Word 256) (b : Byte) :
    freqAt (countLoop syms freq) b = freqAt freq b + BitVec.ofNat 32 (syms.count b) := by
  induction syms generalizing freq with
  | nil => simp [countLoop]
  | cons a syms ih =>
    rw [countLoop, ih, freqAt_freqSet, List.count_cons]
    by_cases hab : a = b
    · simp [hab, BitVec.ofNat_add, BitVec.add_assoc, BitVec.add_comm 1#32]
    · simp [hab]

/-- From a table of zeros, the counts themselves. -/
theorem freqAt_countLoop_zero (syms : List Byte) (b : Byte) :
    freqAt (countLoop syms (Vector.replicate 256 0)) b = BitVec.ofNat 32 (syms.count b) := by
  rw [freqAt_countLoop]
  simp [freqAt]

/-- COUNT on a readable input (40_frequency_counter.md R140). -/
theorem execCount_of_readable {syms : Nat → Byte} (hlen : s.inLen.toNat ≤ s.params.symCap)
    (hread : ∀ i, i < s.inLen.toNat → s.symAt i = some (syms i)) :
    execCount s = .next (complete none
      (invalidate (setFreq (countLoop ((List.range s.inLen.toNat).map syms) (Vector.replicate 256 0)) s))) := by
  have hr : readAll s.symAt s.inLen.toNat 0 = .ok ((List.range s.inLen.toNat).map syms) := by
    rw [List.range_eq_range']
    exact readAll_eq_ok syms (by simpa using hread)
  rw [execCount, if_neg (by omega), hr]
  rfl

/-- COUNT past SYM_CAP (40_frequency_counter.md R140). -/
theorem execCount_of_symCap_lt (hlen : s.params.symCap < s.inLen.toNat) :
    execCount s = .next (complete (some { kind := .badLength, info := s.inLen }) s) := if_pos hlen

/-! Sums and supports of counts (40_frequency_counter.md R142). -/

theorem mem_allBytes (b : Byte) : b ∈ (List.range 256).map (BitVec.ofNat 8) :=
  List.mem_map.2 ⟨b.toNat, List.mem_range.2 b.isLt, by simp⟩

/-- Where every count is 1, every byte value is the symbol of a leaf. -/
theorem allBytes_nodup : ((List.range 256).map (BitVec.ofNat 8)).Nodup := by
  have hall : leafSymbols (Vector.replicate 256 1) = (List.range 256).map (BitVec.ofNat 8) := by
    rw [leafSymbols, List.filter_eq_self]
    intro b _
    simp [freqAt]
  rw [← hall]
  exact leafSymbols_nodup _

/-- The counts of all byte values sum to the length. -/
theorem sum_count_allBytes (l : List Byte) : (((List.range 256).map (BitVec.ofNat 8)).map l.count).sum = l.length := by
  have hsum := Multiset.sum_count_eq_card (s := ((List.range 256).map (BitVec.ofNat 8)).toFinset) (m := (l : Multiset Byte))
    fun b _ => List.mem_toFinset.2 (mem_allBytes b)
  rw [← List.sum_toFinset _ allBytes_nodup]
  simpa only [Multiset.coe_count, Multiset.coe_card] using hsum

theorem mem_leafSymbols {freq : Vector Word 256} {b : Byte} : b ∈ leafSymbols freq ↔ freqAt freq b ≠ 0 := by
  rw [leafSymbols, List.mem_filter]
  simp only [mem_allBytes, true_and, bne_iff_ne]

theorem rank_eq_length_leafSymbols (freq : Vector Word 256) : rank freq 256 = (leafSymbols freq).length := by
  rw [rank, leafSymbols, List.filter_map, List.length_map]
  rfl

/-- A table whose nonzero counts are those of the symbols of `l` has as many of them as `l` has different symbols. -/
theorem rank_eq_length_dedup {freq : Vector Word 256} {l : List Byte} (h : ∀ b, freqAt freq b ≠ 0 ↔ b ∈ l) :
    rank freq 256 = l.dedup.length := by
  rw [rank_eq_length_leafSymbols]
  exact ((List.perm_ext_iff_of_nodup (leafSymbols_nodup freq) l.nodup_dedup).2 fun b => by
    rw [mem_leafSymbols, h, List.mem_dedup]).length_eq

section

variable {l : List Byte} (hl : l.length < 2 ^ 32)

include hl

/-- The counts of a list that a 32-bit counter can count do not wrap. -/
theorem toNat_freqAt_countLoop_zero (b : Byte) :
    (freqAt (countLoop l (Vector.replicate 256 0)) b).toNat = l.count b := by
  have := List.count_le_length (a := b) (l := l)
  rw [freqAt_countLoop_zero, BitVec.toNat_ofNat, Nat.mod_eq_of_lt (by omega)]

theorem freqAt_countLoop_zero_ne_zero_iff (b : Byte) :
    freqAt (countLoop l (Vector.replicate 256 0)) b ≠ 0 ↔ b ∈ l := by
  rw [← List.count_pos_iff, ← toNat_freqAt_countLoop_zero hl, Nat.pos_iff_ne_zero, ne_eq, ne_eq, ← BitVec.toNat_inj]
  rfl

theorem sum_freqAt_countLoop_zero :
    ((List.range 256).map fun i => (freqAt (countLoop l (Vector.replicate 256 0)) (BitVec.ofNat 8 i)).toNat).sum =
      l.length := by
  simp only [toNat_freqAt_countLoop_zero hl]
  rw [← sum_count_allBytes l, List.map_map]
  rfl

end

end Sys2Proof.Machine
end

section
/-! SUPPORT. The statements of 40_frequency_counter.md: what COUNT leaves in FREQ, and its totals. -/

namespace Sys2Proof.Machine

/-- Settles O12: the operands are read in order, and the loop counts them. -/
theorem countCountsTheInput : Obligations.CountCountsTheInput :=
  ⟨fun _ _ hlen hread => ⟨_, freqAt_countLoop_zero _, execCount_of_readable hlen hread⟩, fun _ => execCount_of_symCap_lt⟩

/-- Settles O13: an input of COUNT has at most 65536 symbols, so no count wraps. -/
theorem countTotals : Obligations.CountTotals := by
  intro s t syms hlegal hread h herr
  obtain ⟨⟨-, -, hcap⟩, -, -⟩ := hlegal
  obtain ⟨-, rfl⟩ | ⟨hlen, -⟩ := execCount_cases h
  · cases herr
  obtain rfl := Host.Outcome.next.inj ((execCount_of_readable hlen hread).symm.trans h)
  have hinput : ((List.range s.inLen.toNat).map syms).length = s.inLen.toNat := by simp
  have hmem := freqAt_countLoop_zero_ne_zero_iff (l := (List.range s.inLen.toNat).map syms) (by omega)
  exact ⟨(sum_freqAt_countLoop_zero (by omega)).trans hinput, rank_eq_length_dedup hmem, fun b => (hmem b).trans (by simp)⟩

end Sys2Proof.Machine
end

section
/-! SUPPORT. The loops of ENCODE and DECODE, said once: how the encoding loop ends, with which errors the decoding loop ends, and what
it makes of complete codes. -/

namespace Sys2Proof.Machine

/-! Encoding (43_encoder.md R180 to R182). -/

/-- The loop encodes all symbols, or stops at the first that has no code or whose code does not fit. -/
theorem encodeLoop_cases (codes : Vector CodeEntry 256) (bitCap : Nat) (syms : List Byte) (i : Nat) (out : List Bool) :
    ((∀ b ∈ syms, (codeAt codes b).present = true) ∧
      encodeLoop codes bitCap syms i out = (out ++ syms.flatMap (fun b => (codeAt codes b).code), none)) ∨
    ∃ pre b post kind, syms = pre ++ b :: post ∧ (∀ a ∈ pre, (codeAt codes a).present = true) ∧
      encodeLoop codes bitCap syms i out =
        (out ++ pre.flatMap (fun b => (codeAt codes b).code),
          some { kind := kind, info := BitVec.ofNat 32 (i + pre.length) }) ∧
      (kind = .unknownSymbol ∧ (codeAt codes b).present = false ∨
        kind = .outputOverflow ∧ (codeAt codes b).present = true) := by
  induction syms generalizing i out with
  | nil => exact .inl ⟨by simp, by simp [encodeLoop]⟩
  | cons b syms ih =>
    rw [encodeLoop]
    split
    · next hb => exact .inr ⟨[], b, syms, .unknownSymbol, rfl, by simp, by simp, .inl ⟨rfl, hb⟩⟩
    · next hb =>
      have hb : (codeAt codes b).present = true := by simpa using hb
      split
      · exact .inr ⟨[], b, syms, .outputOverflow, rfl, by simp, by simp, .inr ⟨rfl, hb⟩⟩
      · obtain ⟨hall, hloop⟩ | ⟨pre, a, post, kind, rfl, hpre, hloop, hkind⟩ := ih (i + 1) (out ++ (codeAt codes b).code)
        · exact .inl ⟨by simpa [hb] using hall, by simp [hloop]⟩
        · exact .inr ⟨b :: pre, a, post, kind, rfl, by simpa [hb] using hpre,
            by simp [hloop, Nat.add_assoc, Nat.add_comm 1], hkind⟩

/-! Decoding (44_decoder.md R190 to R195). -/

/-- The errors that end the decoding loop, each with an index of a bit of the stream (44_decoder.md R193 to R195). -/
theorem decodeLoop_error {arena : Vector Node 511} {root cur : NodeIdx} {outCap i start : Nat} {bits : List Bool}
    {out : List Byte} {e : Raise} (hstart : start ≤ i)
    (h : (decodeLoop arena root outCap bits i cur out start).2 = some e) :
    (e.kind = .malformedStream ∨ e.kind = .truncatedStream ∨ e.kind = .outputOverflow) ∧
      ∃ k, k < i + bits.length ∧ e.info = BitVec.ofNat 32 k := by
  induction bits generalizing i cur out start with
  | nil =>
    rw [decodeLoop] at h
    split at h
    · cases h
    · next hne =>
      cases h
      exact ⟨.inr (.inl rfl), start, by simp; omega, rfl⟩
  | cons b bits ih =>
    have hlen : i + 1 + bits.length = i + (b :: bits).length := by simp; omega
    rw [decodeLoop] at h
    split at h
    · cases h
      exact ⟨.inl rfl, i, by simp, rfl⟩
    · split at h
      · exact hlen ▸ ih (by omega) h
      · split at h
        · cases h
          exact ⟨.inr (.inr rfl), i, by simp, rfl⟩
        · exact hlen ▸ ih le_rfl h

@[simp] theorem nodeAt_nilIdx (arena : Vector Node 511) : nodeAt arena nilIdx = .empty := by
  simp [nodeAt]

/-- No leaf is reached through NIL. -/
theorem ne_nilIdx_of_walk {arena : Vector Node 511} {n m : NodeIdx} {p : List Bool} (h : walk arena n p = some m)
    (hm : (nodeAt arena m).isLeaf = true) : n ≠ nilIdx := by
  rintro rfl
  cases p with
  | nil =>
    cases h
    simp [Node.isLeaf] at hm
  | cons b p => simp [walk] at h

section

variable {arena : Vector Node 511} {root : NodeIdx} {outCap : Nat} {out : List Byte}

/-- From a node inside the tree the bits of a path to a leaf emit the leaf's symbol (44_decoder.md R191). -/
theorem decodeLoop_walk {p : List Bool} {cur m : NodeIdx} (rest : List Bool) (i start : Nat) (hcap : out.length < outCap)
    (hcur : (nodeAt arena cur).isLeaf = false) (hw : walk arena cur p = some m) (hm : (nodeAt arena m).isLeaf = true) :
    decodeLoop arena root outCap (p ++ rest) i cur out start =
      decodeLoop arena root outCap rest (i + p.length) root (out ++ [(nodeAt arena m).symbol]) (i + p.length) := by
  induction p generalizing cur i with
  | nil =>
    cases hw
    cases hcur.symm.trans hm
  | cons b p ih =>
    obtain ⟨l, r, w, hnode⟩ : ∃ l r w, nodeAt arena cur = .internal l r w := by
      cases hn : nodeAt arena cur <;> simp [walk, hn] at hw ⊢
    have hw : walk arena (if b then r else l) p = some m := by simpa [walk, hnode] using hw
    have hstep : cursorStep arena cur b = some (if b then r else l) := by
      simpa [cursorStep, hnode, Node.isLeaf, Node.leftChild, Node.rightChild] using ne_nilIdx_of_walk hw hm
    rw [List.cons_append, decodeLoop, hstep]
    dsimp only
    cases hchild : (nodeAt arena (if b then r else l)).isLeaf with
    | false =>
      rw [if_pos rfl, ih (i + 1) hchild hw]
      simp only [List.length_cons, Nat.add_assoc, Nat.add_comm 1]
    | true =>
      cases p with
      | nil =>
        cases hw
        rw [if_neg (by simp), if_neg (by omega)]
        rfl
      | cons c p =>
        cases hn : nodeAt arena (if b then r else l) <;> simp [walk, hn, Node.isLeaf] at hw hchild

/-- From ROOT the bits of a symbol's code emit the symbol (44_decoder.md R191, R192). -/
theorem decodeLoop_code {p : List Bool} {b : Byte} (h : CodeOf arena root p b) (rest : List Bool) (i : Nat)
    (hcap : out.length < outCap) :
    decodeLoop arena root outCap (p ++ rest) i root out i =
      decodeLoop arena root outCap rest (i + p.length) root (out ++ [b]) (i + p.length) := by
  unfold CodeOf at h
  split at h
  · next hroot =>
    obtain ⟨rfl, rfl⟩ := h
    rw [List.singleton_append, decodeLoop, cursorStep, if_pos hroot]
    simp [hroot, hcap.ne]
  · next hroot =>
    obtain ⟨m, hw, hm, rfl⟩ := h
    exact decodeLoop_walk rest i i hcap (by simpa using hroot) hw hm

/-- Complete codes emit their symbols one after the other (44_decoder.md R190). -/
theorem decodeLoop_codes {xs : List (List Bool × Byte)} (h : ∀ x ∈ xs, CodeOf arena root x.1 x.2) (rest : List Bool) (i : Nat)
    (hcap : out.length + xs.length ≤ outCap) :
    decodeLoop arena root outCap (xs.flatMap Prod.fst ++ rest) i root out i =
      decodeLoop arena root outCap rest (i + (xs.flatMap Prod.fst).length) root (out ++ xs.map Prod.snd)
        (i + (xs.flatMap Prod.fst).length) := by
  induction xs generalizing i out with
  | nil => simp
  | cons x xs ih =>
    obtain ⟨hx, hxs⟩ := List.forall_mem_cons.1 h
    rw [List.length_cons] at hcap
    rw [List.flatMap_cons, List.append_assoc, decodeLoop_code hx _ _ (by omega), ih hxs _ (by simp; omega)]
    simp [Nat.add_assoc]

end

end Sys2Proof.Machine
end

section
/-! SUPPORT. The errors of the commands (60_exceptions.md R231 to R233): which each command raises, and with which information. -/

namespace Sys2Proof.Machine

variable {s t : State}

/-- The errors of a command, with ERR_INFO (60_exceptions.md R232, R233); of an index of a bit, its bound. -/
inductive CommandError (s : State) : Instr → Raise → Prop
  | countLength : CommandError s .count { kind := .badLength, info := s.inLen }
  | emptyInput : CommandError s .build { kind := .emptyInput, info := 0 }
  | assignNoTree : CommandError s .assign { kind := .noTree, info := 0 }
  | noCodes : CommandError s .encode { kind := .noCodes, info := 0 }
  | encodeLength : CommandError s .encode { kind := .badLength, info := s.inLen }
  | unknownSymbol (k : Word) (hk : k.toNat < s.inLen.toNat)
      (hat : ∃ b, s.symAt k.toNat = some b ∧ (codeAt s.codes b).present = false)
      (hbefore : ∀ i, i < k.toNat → ∃ b, s.symAt i = some b ∧ (codeAt s.codes b).present = true) :
      CommandError s .encode { kind := .unknownSymbol, info := k }
  | encodeOverflow (k : Word) (hk : k.toNat < s.inLen.toNat) :
      CommandError s .encode { kind := .outputOverflow, info := k }
  | decodeNoTree : CommandError s .decode { kind := .noTree, info := 0 }
  | decodeLength : CommandError s .decode { kind := .badLength, info := s.bitLen }
  | malformedStream (k : Word) (hk : k.toNat < s.bitLen.toNat) :
      CommandError s .decode { kind := .malformedStream, info := k }
  | truncatedStream (k : Word) (hk : k.toNat < s.bitLen.toNat) :
      CommandError s .decode { kind := .truncatedStream, info := k }
  | decodeOverflow (k : Word) (hk : k.toNat < s.bitLen.toNat) :
      CommandError s .decode { kind := .outputOverflow, info := k }
  | illegal (c : Word) : CommandError s (.illegal c) { kind := .illegalCommand, info := c }

/-- An index below a length register fits in ERR_INFO. -/
theorem toNat_ofNat_of_lt_word {k : Nat} {len : Word} (h : k < len.toNat) : (BitVec.ofNat 32 k).toNat = k := by
  rw [BitVec.toNat_ofNat, Nat.mod_eq_of_lt (h.trans len.isLt)]

/-- The error that ends the encoding loop of ENCODE. -/
theorem commandError_of_encodeLoop {syms : List Byte} {out : List Bool} {e : Raise}
    (hread : readAll s.symAt s.inLen.toNat 0 = .ok syms)
    (hloop : encodeLoop s.codes s.params.bitCap syms 0 [] = (out, some e)) : CommandError s .encode e := by
  obtain ⟨hlen, hget⟩ := readAll_ok hread
  obtain ⟨-, hall⟩ | ⟨pre, b, post, kind, rfl, hpre, hstop, hkind⟩ := encodeLoop_cases s.codes s.params.bitCap syms 0 []
  · cases hall.symm.trans hloop
  · rw [hstop, Nat.zero_add] at hloop
    cases hloop
    rw [List.length_append, List.length_cons] at hlen
    have hk : pre.length < s.inLen.toNat := by omega
    have hinfo := toNat_ofNat_of_lt_word hk
    obtain ⟨rfl, hb⟩ | ⟨rfl, -⟩ := hkind
    · refine .unknownSymbol _ (hinfo.symm ▸ hk) ⟨b, ?_, hb⟩ fun i hi => ?_
      · simpa [hinfo] using hget pre.length (by simp)
      · rw [hinfo] at hi
        have hati := hget i (by simp; omega)
        rw [Nat.zero_add, List.getElem_append_left hi] at hati
        exact ⟨pre[i], hati, hpre _ (List.getElem_mem hi)⟩
    · exact .encodeOverflow _ (hinfo.symm ▸ hk)

/-- The error that ends the decoding loop of DECODE. -/
theorem commandError_of_decodeLoop {bits : List Bool} {out : List Byte} {e : Raise}
    (hread : readAll s.bitAt s.bitLen.toNat 0 = .ok bits)
    (hloop : decodeLoop s.arena s.root s.params.outCap bits 0 s.root [] 0 = (out, some e)) : CommandError s .decode e := by
  obtain ⟨hlen, -⟩ := readAll_ok hread
  obtain ⟨hkind, k, hk, hinfo⟩ := decodeLoop_error le_rfl (congrArg Prod.snd hloop)
  rw [Nat.zero_add, hlen] at hk
  have hlt : e.info.toNat < s.bitLen.toNat := by rwa [hinfo, toNat_ofNat_of_lt_word hk]
  obtain ⟨kind, info⟩ := e
  obtain rfl | rfl | rfl := hkind
  · exact .malformedStream info hlt
  · exact .truncatedStream info hlt
  · exact .decodeOverflow info hlt

/-- How a command that answers a next state ends: with success, or with one of its errors. -/
theorem exec_outcome {i : Instr} (h : exec i s = .next t) :
    ∃ r : Option Raise, t.err = r.map Raise.kind ∧ t.errInfo = (r.map Raise.info).getD 0 ∧ ∀ e, r = some e → CommandError s i e := by
  cases i with
  | count =>
    obtain ⟨-, rfl⟩ | ⟨-, syms, -, rfl⟩ := execCount_cases h
    · exact ⟨_, rfl, rfl, fun _ he => Option.some.inj he ▸ .countLength⟩
    · exact ⟨none, rfl, rfl, nofun⟩
  | build =>
    obtain ⟨-, rfl⟩ | ⟨T, -, rfl⟩ := execBuild_cases h
    · exact ⟨_, rfl, rfl, fun _ he => Option.some.inj he ▸ .emptyInput⟩
    · exact ⟨none, rfl, rfl, nofun⟩
  | assign =>
    obtain ⟨-, rfl⟩ | ⟨-, codes, -, rfl⟩ := execAssign_cases h
    · exact ⟨_, rfl, rfl, fun _ he => Option.some.inj he ▸ .assignNoTree⟩
    · exact ⟨none, rfl, rfl, nofun⟩
  | encode =>
    obtain ⟨-, rfl⟩ | ⟨-, -, rfl⟩ | ⟨-, -, syms, out, r, hread, hloop, rfl⟩ := execEncode_cases h
    · exact ⟨_, rfl, rfl, fun _ he => Option.some.inj he ▸ .noCodes⟩
    · exact ⟨_, rfl, rfl, fun _ he => Option.some.inj he ▸ .encodeLength⟩
    · exact ⟨r, rfl, rfl, fun e he => commandError_of_encodeLoop hread (he ▸ hloop)⟩
  | decode =>
    obtain ⟨-, rfl⟩ | ⟨-, -, rfl⟩ | ⟨-, -, bits, out, r, hread, hloop, rfl⟩ := execDecode_cases h
    · exact ⟨_, rfl, rfl, fun _ he => Option.some.inj he ▸ .decodeNoTree⟩
    · exact ⟨_, rfl, rfl, fun _ he => Option.some.inj he ▸ .decodeLength⟩
    · exact ⟨r, rfl, rfl, fun e he => commandError_of_decodeLoop hread (he ▸ hloop)⟩
  | illegal c =>
    cases h
    exact ⟨_, rfl, rfl, fun _ he => Option.some.inj he ▸ .illegal c⟩

/-- Settles O7: by the errors of each command. -/
theorem errorsAndTheirInfo : Obligations.ErrorsAndTheirInfo := by
  refine ⟨fun i s t e h he => ?_, fun i s t h => ?_, fun s => ?_⟩
  · obtain ⟨r, herr, -, hr⟩ := exec_outcome h
    obtain ⟨x, rfl, rfl⟩ := Option.map_eq_some_iff.1 (herr.symm.trans he)
    cases hr x rfl <;> simp
  · obtain ⟨r, herr, hinfo, hr⟩ := exec_outcome h
    rw [herr, hinfo]
    cases r with
    | none => simp
    | some x =>
      cases hr x rfl with
      | countLength | encodeLength | decodeLength => simp
      | emptyInput | assignNoTree | noCodes | decodeNoTree => simp
      | unknownSymbol k hk hat hbefore => simpa using ⟨hk, hat, hbefore⟩
      | encodeOverflow k hk | malformedStream k hk | truncatedStream k hk | decodeOverflow k hk => simpa using hk
      | illegal c => simp
  · rw [State.errCode]
    cases s.err with
    | none => simp
    | some e => cases e <;> decide

end Sys2Proof.Machine
end

section
/-! SUPPORT. The stream that ENCODE stores (20_memory.md R87, 43_encoder.md R183), read back bit by bit. -/

namespace Sys2Proof.Machine

theorem packWords_getElem? {n w : Nat} (h : w < n) (p : List Bool) :
    (packWords n p)[w]? = some (wordOfBits ((p.drop (32 * w)).take 32)) := by
  induction n generalizing w p with
  | zero => omega
  | succ n ih =>
    cases w with
    | zero => simp [packWords]
    | succ w => simp [packWords, ih (Nat.lt_of_succ_lt_succ h), Nat.mul_succ, Nat.add_comm 32]

/-- The bytes of a sequence of words, four to a word. -/
theorem flatMap_bytesOfWord_getElem? {ws : List Word} {w k : Nat} {v : Word} (hv : ws[w]? = some v) (hk : k < 4) :
    (ws.flatMap bytesOfWord)[4 * w + k]? = some (v.extractLsb' (8 * k) 8) := by
  induction ws generalizing w with
  | nil => cases hv
  | cons x ws ih =>
    rw [List.flatMap_cons]
    cases w with
    | zero =>
      cases hv
      rw [List.getElem?_append_left (by simpa using hk), Nat.mul_zero, Nat.zero_add]
      exact bytesOfWord_getElem _ k hk
    | succ w =>
      rw [List.getElem?_append_right (by simp; omega), bytesOfWord_length, show 4 * (w + 1) + k - 4 = 4 * w + k by omega]
      exact ih hv

/-- Bit `j` of a stream lies where BIT(j) does, 0 past its end. -/
theorem streamBytes_bit (out : List Bool) {j : Nat} (hj : j < 32 * ((out.length + 31) / 32)) :
    (streamBytes out)[4 * (j / 32) + (31 - j % 32) / 8]?.map (fun b => b.getLsbD (bitPos j)) = some (out.getD j false) := by
  have hword := packWords_getElem? (n := wordsFor out.length) (w := j / 32) (by rw [wordsFor]; omega) out
  have hlow : j % 32 < 32 := Nat.mod_lt j (by decide)
  have hbit : 8 * ((31 - j % 32) / 8) + (31 - j % 32) % 8 = 31 - j % 32 := Nat.div_add_mod _ 8
  rw [streamBytes, flatMap_bytesOfWord_getElem? hword (by omega), Option.map_some, bitPos, BitVec.getLsbD_extractLsb', hbit,
    getLsbD_wordOfBits, show 31 - (31 - j % 32) = j % 32 by omega, List.getD_eq_getElem?_getD,
    List.getElem?_take_of_lt hlow, List.getElem?_drop, Nat.div_add_mod, List.getD_eq_getElem?_getD]
  simp [Nat.mod_lt, Nat.sub_lt_succ]

/-- What ENCODE stores (43_encoder.md R180, R183): its stream, padded with 0 to the end of its last word, and nothing else. -/
theorem wroteStream_memWrite (m : Memory) (out : List Bool) :
    WroteStream m (memWrite m bitBase (streamBytes out)) out := by
  refine ⟨fun j hj => ?_, fun a ha => memRead_memWrite_outside _ _ _ a (by rwa [streamBytes_length])⟩
  have hlt : 4 * (j / 32) + (31 - j % 32) / 8 < (streamBytes out).length := by rw [streamBytes_length]; omega
  rw [bitAddr, Nat.add_assoc, memRead_memWrite_inside _ _ _ _ hlt, ← List.getElem?_eq_getElem hlt]
  exact streamBytes_bit out hj

/-- A byte that is stored is the one a command reads. -/
theorem cmdByte_of_memRead {u : UninitRead} {m : Memory} {bg : Background} {a : Nat} {b : Byte} (h : memRead m a = some b) :
    cmdByte u m bg a = some b := by simp [cmdByte, h]

/-- A command reads the stored stream. -/
theorem bitAt_of_wroteStream {s : State} {m : Memory} {out : List Bool} (h : WroteStream m s.mem out) {j : Nat}
    (hj : j < out.length) : s.bitAt j = some (out.getD j false) := by
  have hread := h.1 j (by omega)
  obtain ⟨b, hb, -⟩ := Option.map_eq_some_iff.1 hread
  rw [State.bitAt, cmdByte_of_memRead hb, ← hb]
  exact hread

end Sys2Proof.Machine
end

section
/-! SUPPORT. COUNT, BUILD, ASSIGN, ENCODE and DECODE in a row (44_decoder.md R198): what each command hands on to the next. -/

namespace Sys2Proof.Machine

variable {s t u : State} {c : CodeTree}

/-- A command that the host runs is executed in the state that its issue leaves (45_host_interface.md R213, R216). -/
theorem runCommand_of_idle {i : Instr} (he : s.engine = .idle) (hi : i.wf = true) :
    runCommand i s = exec i (issue (encode i) s) := by
  have hissue : hostWrite Reg.cmd.offset (encode i) s = issue (encode i) s := by
    rw [hostWrite_of_idle he, (targetOf_eq_reg_iff (r := .cmd)).2 rfl]
    rfl
  rw [runCommand, hissue, completeStep, issue_engine]
  exact congrArg (exec · _) (decode_encode hi)

/-! The input. -/

/-- The input of COUNT and ENCODE, with the parameters, is the same in two states. -/
structure SameInput (s u : State) : Prop where
  params : u.params = s.params
  inLen : u.inLen = s.inLen
  syms : ∀ i, i < s.inLen.toNat → u.symAt i = s.symAt i

theorem SameInput.trans (h : SameInput s t) (h' : SameInput t u) : SameInput s u where
  params := h'.params.trans h.params
  inLen := h'.inLen.trans h.inLen
  syms i hi := (h'.syms i (h.inLen ▸ hi)).trans (h.syms i hi)

theorem KeptFor.sameInput (h : KeptFor s u) : SameInput s u := ⟨h.params, h.inLen, h.syms⟩

/-- COUNT, BUILD and ASSIGN write no buffer. -/
theorem CommandEffect.sameInput {i : Instr} {r : Option Raise} (h : CommandEffect s i r u) (he : i ≠ .encode)
    (hd : i ≠ .decode) : SameInput s u := by
  cases h with
  | encode => exact absurd rfl he
  | decode => exact absurd rfl hd
  | fails | count | buildFails | build | assign => exact ⟨rfl, rfl, fun _ _ => rfl⟩

theorem exec_issue_sameInput {i : Instr} {w : Word} (h : exec i (issue w s) = .next t) (he : i ≠ .encode) (hd : i ≠ .decode) :
    SameInput s t := by
  obtain ⟨r, u, hu, rfl⟩ := exec_effect h
  exact { hu.sameInput he hd with }

/-! The tree and its codes. -/

/-- The tree `c` lies below ROOT, as BUILD leaves it: one leaf per symbol. -/
structure HoldsTree (s : State) (c : CodeTree) : Prop where
  valid : s.treeValid = true
  isAt : c.IsAt s.arena s.root
  nodup : c.symbols.Nodup
  length_le : c.symbols.length ≤ 256

theorem HoldsTree.congr (h : HoldsTree s c) (hv : u.treeValid = s.treeValid) (ha : u.arena = s.arena) (hr : u.root = s.root) :
    HoldsTree u c where
  valid := hv.trans h.valid
  isAt := by rw [ha, hr]; exact h.isAt
  nodup := h.nodup
  length_le := h.length_le

theorem HoldsTree.issue (hs : HoldsTree s c) (w : Word) : HoldsTree (issue w s) c := hs.congr rfl rfl rfl

theorem KeptFor.holdsTree (h : KeptFor s u) (hs : HoldsTree s c) : HoldsTree u c := hs.congr h.treeValid h.arena h.root

/-- Commands other than COUNT and BUILD leave the tree alone. -/
theorem HoldsTree.exec {i : Instr} (hs : HoldsTree s c) (h : exec i s = .next t) (hc : i ≠ .count) (hb : i ≠ .build) :
    HoldsTree t c := by
  obtain ⟨r, u, hu, rfl⟩ := exec_effect h
  obtain ⟨harena, -, -, hroot, -⟩ := hu.keeps_tree hb
  exact hs.congr (hu.keeps_treeValid hc hb) harena hroot

/-- BUILD without error leaves a tree (41_tree_builder.md R155). -/
theorem execBuild_holdsTree (h : execBuild s = .next t) (herr : t.err = none) : ∃ c, HoldsTree t c := by
  obtain ⟨-, rfl⟩ | ⟨T, hT, rfl⟩ := execBuild_cases h
  · cases herr
  · obtain ⟨c, hc, hperm⟩ := buildTree_isAt hT
    exact ⟨c, rfl, hc, hperm.nodup_iff.2 (leafSymbols_nodup _), hperm.length_eq.trans_le (leafSymbols_length_le _)⟩

/-- ASSIGN on a tree writes its code table (42_code_assigner.md R170). -/
theorem execAssign_codes (hs : HoldsTree s c) (h : execAssign s = .next t) : t.codes = c.codeTable := by
  have hsize := c.size_add_one
  have hlen := hs.length_le
  obtain ⟨hv, -⟩ | ⟨-, codes, hcodes, rfl⟩ := execAssign_cases h
  · cases hv.symm.trans hs.valid
  · exact Option.some.inj (hcodes.symm.trans (c.assignCodes_isAt hs.isAt (by omega)))

/-- An entry of the tree's code table holds the code of its symbol (42_code_assigner.md R171, R172). -/
theorem HoldsTree.codeOf_of_present (hs : HoldsTree s c) {b : Byte} (hb : (codeAt c.codeTable b).present = true) :
    CodeOf s.arena s.root (codeAt c.codeTable b).code b := by
  rw [CodeTree.codeOf_iff hs.isAt hs.nodup]
  rw [CodeTree.codeAt_codeTable] at hb ⊢
  cases hcode : c.code b with
  | none => simp [hcode] at hb
  | some p => simp [code_ofCode p (CodeTree.code_length_le hs.length_le hcode)]

/-! The stream. -/

/-- ENCODE without error: every symbol of the input has a code, and BIT_BUF holds their concatenation (43_encoder.md R180). -/
theorem execEncode_of_err_none (hlegal : s.params.legal) (h : execEncode s = .next t) (herr : t.err = none) :
    ∃ syms : List Byte, readAll s.symAt s.inLen.toNat 0 = .ok syms ∧ (∀ b ∈ syms, (codeAt s.codes b).present = true) ∧
      t.bitLen.toNat ≤ s.params.bitCap ∧
      t.bitLen.toNat = (syms.flatMap (fun b => (codeAt s.codes b).code)).length ∧
      ∀ j, j < t.bitLen.toNat → t.bitAt j = some ((syms.flatMap (fun b => (codeAt s.codes b).code)).getD j false) := by
  obtain ⟨-, ⟨-, -, hcap⟩, -⟩ := hlegal
  obtain ⟨-, rfl⟩ | ⟨-, -, rfl⟩ | ⟨-, -, syms, out, r, hread, hloop, rfl⟩ := execEncode_cases h
  · cases herr
  · cases herr
  obtain ⟨hall, hok⟩ | ⟨_, _, _, _, -, -, hstop, -⟩ := encodeLoop_cases s.codes s.params.bitCap syms 0 []
  · obtain ⟨rfl, rfl⟩ := Prod.mk.inj (hok.symm.trans hloop)
    have hlen := encodeLoop_length_le (codes := s.codes) (i := 0) (syms := syms) (out := []) (Nat.zero_le s.params.bitCap)
    rw [hok] at hlen
    have hbits : (BitVec.ofNat 32 (syms.flatMap fun b => (codeAt s.codes b).code).length).toNat =
        (syms.flatMap fun b => (codeAt s.codes b).code).length := by
      rw [BitVec.toNat_ofNat, Nat.mod_eq_of_lt (by simp only [List.nil_append] at hlen; omega)]
    refine ⟨syms, hread, hall, hbits.trans_le hlen, hbits, fun j hj => ?_⟩
    exact bitAt_of_wroteStream (wroteStream_memWrite s.mem _) (hj.trans_eq hbits)
  · obtain ⟨-, rfl⟩ := Prod.mk.inj (hstop.symm.trans hloop)
    cases herr

/-- Operands that are the elements of a list are read as that list. -/
theorem readAll_eq_ok_of_getD {f : Nat → Option Bool} {l : List Bool} (h : ∀ j, j < l.length → f j = some (l.getD j false)) :
    readAll f l.length 0 = .ok l := by
  rw [readAll_eq_ok (fun j => l.getD j false) (by simpa using h)]
  refine congrArg _ (List.ext_getElem (by simp) fun j _ hj => ?_)
  rw [List.getElem_map, List.getElem_range', List.getD_eq_getElem?_getD]
  simp [hj]

/-- DECODE of complete codes (44_decoder.md R190). -/
theorem execDecode_of_codes {xs : List (List Bool × Byte)} (hv : s.treeValid = true)
    (hlen : s.bitLen.toNat ≤ s.params.bitCap) (hxs : ∀ x ∈ xs, CodeOf s.arena s.root x.1 x.2)
    (hbits : s.bitLen.toNat = (xs.flatMap Prod.fst).length)
    (hread : ∀ j, j < s.bitLen.toNat → s.bitAt j = some ((xs.flatMap Prod.fst).getD j false))
    (hcap : xs.length ≤ s.params.outCap) :
    execDecode s = .next (complete none (storeSymbols (xs.map Prod.snd) s)) := by
  have hr : readAll s.bitAt s.bitLen.toNat 0 = .ok (xs.flatMap Prod.fst) := by
    rw [hbits] at hread ⊢
    exact readAll_eq_ok_of_getD (by simpa using hread)
  have hloop := decodeLoop_codes (outCap := s.params.outCap) (out := []) hxs [] 0 (by simpa using hcap)
  rw [List.append_nil] at hloop
  rw [execDecode, if_neg (by simp [hv]), if_neg (by omega), hr]
  dsimp only
  rw [hloop, decodeLoop]
  simp

/-- DECODE of the codes of symbols of the tree gives the symbols back (44_decoder.md R198). -/
theorem HoldsTree.execDecode_of_stream (hs : HoldsTree s c) {syms : List Byte}
    (hall : ∀ b ∈ syms, (codeAt c.codeTable b).present = true) (hlen : s.bitLen.toNat ≤ s.params.bitCap)
    (hbits : s.bitLen.toNat = (syms.flatMap fun b => (codeAt c.codeTable b).code).length)
    (hread : ∀ j, j < s.bitLen.toNat → s.bitAt j = some ((syms.flatMap fun b => (codeAt c.codeTable b).code).getD j false))
    (hcap : syms.length ≤ s.params.outCap) : execDecode s = .next (complete none (storeSymbols syms s)) := by
  have h := execDecode_of_codes (xs := syms.map fun b => ((codeAt c.codeTable b).code, b)) hs.valid hlen
    (List.forall_mem_map.2 fun b hb => hs.codeOf_of_present (hall b hb))
  simp only [List.flatMap_map, List.map_map, Function.comp_def, List.map_id', List.length_map] at h
  exact h hbits hread hcap

/-- The symbols stored are those in OUT_BUF. -/
theorem outAt_storeSymbols (r : Option Raise) (out : List Byte) (s : State) {i : Nat} (h : i < out.length) :
    (complete r (storeSymbols out s)).outAt i = out[i] := by
  rw [State.outAt, bufByte, complete_mem, storeSymbols_mem, outAddr, memRead_memWrite_inside _ _ _ _ h, Option.getD_some]

/-- Settles O35: COUNT, BUILD and ASSIGN keep the input, the codes that ENCODE writes are those of the tree, and DECODE reads
complete codes back. -/
theorem roundTrip : Obligations.RoundTrip := by
  intro s s1 u1 s2 u2 s3 u3 s4 u4 hi hidle _ hcap hcount _ k1 hbuild hbuilt k2 hassign _ k3 hencode hencoded k4 hlen hbits
  rw [runCommand_of_idle hidle rfl] at hcount
  rw [runCommand_of_idle k1.idle rfl] at hbuild
  rw [runCommand_of_idle k2.idle rfl] at hassign
  rw [runCommand_of_idle k3.idle rfl] at hencode
  rw [runCommand_of_idle k4.idle rfl]
  have hinput : SameInput s u3 :=
    ((exec_issue_sameInput hcount nofun nofun).trans k1.sameInput).trans <|
      ((exec_issue_sameInput hbuild nofun nofun).trans k2.sameInput).trans <|
        (exec_issue_sameInput hassign nofun nofun).trans k3.sameInput
  obtain ⟨c, hc2⟩ := execBuild_holdsTree hbuild hbuilt
  have hcu2 : HoldsTree (issue (encode .assign) u2) c := (k2.holdsTree hc2).issue _
  have hcu3 : HoldsTree (issue (encode .encode) u3) c := (k3.holdsTree (hcu2.exec hassign nofun nofun)).issue _
  have hcu4 : HoldsTree (issue (encode .decode) u4) c := (k4.holdsTree (hcu3.exec hencode nofun nofun)).issue _
  have hcodes : u3.codes = c.codeTable := k3.codes.trans (execAssign_codes hcu2 hassign)
  have hparams : u4.params = s.params := (k4.params.trans (exec_params hencode)).trans hinput.params
  obtain ⟨syms, hread, hall, hfit, hstream, hstored⟩ :=
    execEncode_of_err_none (by rw [issue_params, hinput.params]; exact hi.params) hencode hencoded
  rw [issue_codes, hcodes] at hall hstream hstored
  rw [issue_params, hinput.params, ← hlen] at hfit
  rw [← hlen] at hbits hstream hstored
  obtain ⟨hsyms, hget⟩ := readAll_ok hread
  rw [issue_inLen, hinput.inLen] at hsyms
  refine ⟨_, hcu4.execDecode_of_stream hall (by rwa [issue_params, hparams]) hstream
    (fun j hj => (hbits j hj).trans (hstored j hj)) (by rwa [issue_params, hparams, hsyms]), rfl, ?_, fun i hi => ?_⟩
  · rw [complete_outLen, storeSymbols_outLen, hsyms, BitVec.ofNat_toNat, BitVec.setWidth_eq]
  · rw [outAt_storeSymbols none syms _ (hsyms ▸ hi), ← hinput.syms i hi, ← hget i (hsyms ▸ hi), Nat.zero_add]
    rfl

end Sys2Proof.Machine
end

section
/-! SUPPORT. Extraction (41_tree_builder.md R152): what is least about the node that it returns. -/

namespace Sys2Proof.Machine

/-- Where one element does not come before another, the other has the lesser weight, or the same and no greater index. -/
theorem before_eq_false_iff {a b : QEntry} : a.before b = false ↔ b.w < a.w ∨ (b.w = a.w ∧ b.idx ≤ a.idx) := by
  simp only [QEntry.before, Bool.or_eq_false_iff, Bool.and_eq_false_iff, decide_eq_false_iff_not, beq_eq_false_iff_ne, ne_eq,
    BitVec.lt_def, ← BitVec.toNat_inj]
  omega

theorem before_eq_false_trans {a b c : QEntry} (hab : a.before b = false) (hbc : b.before c = false) : a.before c = false := by
  simp only [before_eq_false_iff, BitVec.lt_def, ← BitVec.toNat_inj] at *
  omega

/-- Nothing comes before the argmin. -/
theorem before_firstOf (m : QEntry) (q : List QEntry) : ∀ e ∈ m :: q, e.before (firstOf m q) = false := by
  induction q generalizing m with
  | nil => simp [firstOf, before_eq_false_iff]
  | cons x q ih =>
    rw [firstOf]
    obtain ⟨hmin, hrest⟩ := List.forall_mem_cons.1 (ih (if x.before m then x else m))
    have hboth : m.before (if x.before m then x else m) = false ∧ x.before (if x.before m then x else m) = false := by
      cases hx : x.before m with
      | false => exact ⟨by simp [before_eq_false_iff], hx⟩
      | true =>
        refine ⟨?_, by simp [before_eq_false_iff]⟩
        simp only [← Bool.not_eq_false, before_eq_false_iff, if_true, BitVec.lt_def, ← BitVec.toNat_inj] at hx ⊢
        omega
    exact List.forall_mem_cons.2 ⟨before_eq_false_trans hboth.1 hmin,
      List.forall_mem_cons.2 ⟨before_eq_false_trans hboth.2 hmin, hrest⟩⟩

theorem leastWeight_le (x : QEntry) (q : List QEntry) : ∀ e ∈ x :: q, leastWeight x.w q ≤ e.w := by
  induction q generalizing x with
  | nil => simp [leastWeight]
  | cons y q ih =>
    rw [leastWeight]
    split
    · next hy =>
      obtain ⟨hmin, hrest⟩ := List.forall_mem_cons.1 (ih y)
      exact List.forall_mem_cons.2 ⟨BitVec.le_trans hmin (BitVec.le_of_lt hy), List.forall_mem_cons.2 ⟨hmin, hrest⟩⟩
    · next hy =>
      obtain ⟨hmin, hrest⟩ := List.forall_mem_cons.1 (ih x)
      exact List.forall_mem_cons.2 ⟨hmin, List.forall_mem_cons.2 ⟨BitVec.le_trans hmin (BitVec.not_lt.1 hy), hrest⟩⟩

/-- The weight extracted is the least of the queue. -/
theorem extract_le {tie : TieOrder} {pick : Nat} {q : List QEntry} {m : QEntry} (h : extract tie pick q = some m) :
    ∀ e ∈ q, m.w ≤ e.w := by
  cases q with
  | nil => simp
  | cons x q =>
    cases tie with
    | seq =>
      cases h
      intro e he
      obtain hlt | ⟨heq, -⟩ := before_eq_false_iff.1 (before_firstOf x q e he)
      · exact BitVec.le_of_lt hlt
      · exact heq ▸ BitVec.le_refl _
    | any =>
      have hm : m.w = leastWeight x.w q := by simpa using (List.mem_filter.1 (List.mem_of_getElem? h)).2
      exact hm ▸ leastWeight_le x q

/-- Under SEQ nothing in the queue comes before the node extracted. -/
theorem before_extract_seq {pick : Nat} {q : List QEntry} {m : QEntry} (h : extract .seq pick q = some m) :
    ∀ e ∈ q, e.before m = false := by
  cases q with
  | nil => simp
  | cons x q => cases h; exact before_firstOf x q

/-- Under ANY each node of the least weight is extracted for some choice. -/
theorem exists_extract_any {q : List QEntry} {m : QEntry} (hm : m ∈ q) (hle : ∀ e ∈ q, m.w ≤ e.w) :
    ∃ pick, extract .any pick q = some m := by
  cases q with
  | nil => simp at hm
  | cons x q =>
    have hmw : m.w = leastWeight x.w q := by
      refine BitVec.le_antisymm ?_ (leastWeight_le x q m hm)
      obtain h | ⟨e, he, h⟩ := leastWeight_mem x.w q
      · exact h.symm ▸ hle x List.mem_cons_self
      · exact h ▸ hle e (List.mem_cons_of_mem _ he)
    have htied : m ∈ (x :: q).filter (fun e => e.w == leastWeight x.w q) := List.mem_filter.2 ⟨hm, by simp [hmw]⟩
    obtain ⟨i, hi, hget⟩ := List.getElem_of_mem htied
    refine ⟨i, ?_⟩
    simp only [extract]
    rw [Nat.mod_eq_of_lt hi, List.getElem?_eq_getElem hi, hget]

theorem extract_seq_pick (pick pick' : Nat) (q : List QEntry) : extract .seq pick q = extract .seq pick' q := by
  cases q <;> rfl

/-- Settles O16: the argmin of R152 under SEQ, and the nodes of the least weight under ANY. -/
theorem extractionTakesALeastWeight : Obligations.ExtractionTakesALeastWeight := by
  intro tie q hq
  refine ⟨fun pick => ?_, fun htie pick m h e he hw => ?_, fun htie m hm hle => ?_⟩
  · obtain ⟨m, h⟩ := Option.ne_none_iff_exists'.1 fun h => hq (extract_eq_none (tie := tie) (pick := pick) h)
    exact ⟨m, h, extract_mem h, extract_le h⟩
  · subst htie
    obtain hlt | ⟨-, hidx⟩ := before_eq_false_iff.1 (before_extract_seq h e he)
    · exact absurd (hw ▸ hlt) (BitVec.lt_irrefl _)
    · exact hidx
  · subst htie
    exact exists_extract_any hm hle

end Sys2Proof.Machine
end

section
/-! SUPPORT. The states of BUILD's merge loop (41_tree_builder.md R150, R153): what holds of the queue and the nodes in each of them,
and where an internal node of the tree comes from. -/

namespace Sys2Proof.Machine

/-- The leaves of BUILD, node j the j-th symbol of nonzero count (41_tree_builder.md R151). -/
def leafNodes (freq : Vector Word 256) : List Node := (leafSymbols freq).map (leafOf freq)

/-- The queue and the nodes that BUILD's merge loop comes to, with some choices. -/
inductive Merging (tie : TieOrder) (freq : Vector Word 256) : List QEntry → List Node → Prop
  | leaves : Merging tie freq (queueFrom 0 (leafNodes freq)) (leafNodes freq)
  | merge {pick1 pick2 : Nat} {q : List QEntry} {nodes : List Node} {m1 m2 : QEntry} (h : Merging tie freq q nodes)
      (h1 : extract tie pick1 q = some m1) (h2 : extract tie pick2 (remove m1 q) = some m2) :
      Merging tie freq (remove m2 (remove m1 q) ++ [{ idx := nodes.length, w := m1.w + m2.w }])
        (nodes ++ [.internal (BitVec.ofNat 9 m1.idx) (BitVec.ofNat 9 m2.idx) (m1.w + m2.w)])

/-- The sum of all counts. -/
def totalCount (freq : Vector Word 256) : Nat := ((List.range 256).map (fun b => (freqAt freq (BitVec.ofNat 8 b)).toNat)).sum

/-- The weight of node `i` of a list. -/
def weightOf (nodes : List Node) (i : Nat) : Weight := (nodes[i]?.getD .empty).weight

/-- The children of a node. -/
def Node.children : Node → List Nat
  | .empty => []
  | .leaf _ _ => []
  | .internal l r _ => [l.toNat, r.toNat]

theorem weightOf_append {nodes : List Node} {i : Nat} (h : i < nodes.length) (more : List Node) :
    weightOf (nodes ++ more) i = weightOf nodes i := by rw [weightOf, weightOf, List.getElem?_append_left h]

theorem weightOf_of_prefix {nodes all : List Node} (h : nodes <+: all) {i : Nat} (hi : i < nodes.length) :
    weightOf all i = weightOf nodes i := by
  obtain ⟨more, rfl⟩ := h
  exact weightOf_append hi more

theorem mem_of_prefix {nodes all : List Node} (h : nodes <+: all) {i : Nat} {x : Node} (hi : i < nodes.length)
    (hx : all[i]? = some x) : x ∈ nodes := by
  obtain ⟨more, rfl⟩ := h
  exact List.mem_of_getElem? ((List.getElem?_append_left hi).symm.trans hx)

/-- Counts have 32 bits and there are 256 of them, so their sum has 40 (41_tree_builder.md R154). -/
theorem totalCount_lt (freq : Vector Word 256) : totalCount freq < 2 ^ 40 := by
  have h := List.sum_le_card_nsmul ((List.range 256).map (fun b => (freqAt freq (BitVec.ofNat 8 b)).toNat)) (2 ^ 32 - 1) (by
    simp only [List.forall_mem_map]
    intro b _
    have := (freqAt freq (BitVec.ofNat 8 b)).isLt
    omega)
  simp only [List.length_map, List.length_range, smul_eq_mul] at h
  rw [totalCount]
  omega

@[simp] theorem toNat_weight_leafOf (freq : Vector Word 256) (b : Byte) : (leafOf freq b).weight.toNat = (freqAt freq b).toNat := by
  have := (freqAt freq b).isLt
  simp only [leafOf, Node.weight, BitVec.toNat_setWidth]
  omega

theorem queueFrom_map_w (j : Nat) (nodes : List Node) : (queueFrom j nodes).map QEntry.w = nodes.map Node.weight := by
  induction nodes generalizing j with
  | nil => rfl
  | cons n nodes ih => simp [queueFrom, ih]

/-- Counts of 0 add nothing. -/
theorem sum_filter_ne_zero (f : Byte → Word) (l : List Byte) :
    ((l.filter fun b => f b != 0).map fun b => (f b).toNat).sum = (l.map fun b => (f b).toNat).sum := by
  induction l with
  | nil => rfl
  | cons b l ih =>
    rw [List.filter_cons, List.map_cons, List.sum_cons, ← ih]
    split
    · rw [List.map_cons, List.sum_cons]
    · next hb =>
      have hzero : f b = 0 := by simpa using hb
      rw [hzero]
      exact (Nat.zero_add _).symm

theorem sum_leafSymbols (freq : Vector Word 256) :
    ((leafSymbols freq).map fun b => (freqAt freq b).toNat).sum = totalCount freq := by
  rw [leafSymbols, sum_filter_ne_zero, totalCount, List.map_map]
  rfl

namespace Merging

variable {tie : TieOrder} {freq : Vector Word 256} {q : List QEntry} {nodes : List Node}

theorem mergeInv (h : Merging tie freq q nodes) : MergeInv (leafSymbols freq) q nodes := by
  induction h with
  | leaves => exact mergeInv_leaves freq
  | merge _ h1 h2 ih => exact ih.merge (leafSymbols_length_le freq) (extract_mem h1) (extract_mem h2)

/-- The leaves stay where they are, and every other node is an internal one. -/
theorem exists_merged (h : Merging tie freq q nodes) :
    ∃ merged, nodes = leafNodes freq ++ merged ∧ ∀ x ∈ merged, ∃ l r w, x = .internal l r w := by
  induction h with
  | leaves => exact ⟨[], by simp, by simp⟩
  | merge _ _ _ ih =>
    obtain ⟨merged, rfl, hmerged⟩ := ih
    refine ⟨_, List.append_assoc _ _ _, fun x hx => ?_⟩
    obtain hx | hx := List.mem_append.1 hx
    · exact hmerged x hx
    · exact ⟨_, _, _, List.mem_singleton.1 hx⟩

theorem ne_nil (h : Merging tie freq q nodes) (hleaf : leafSymbols freq ≠ []) : q ≠ [] := by
  cases h with
  | leaves =>
    rw [ne_eq, ← List.length_eq_zero_iff, queueFrom_length]
    simpa [leafNodes] using hleaf
  | merge _ _ _ => simp

/-- Where the queue is not empty, the arena has room for the nodes. -/
theorem length_le (h : Merging tie freq q nodes) : nodes.length + q.length ≤ 512 := by
  have := leafSymbols_length_le freq
  have := h.mergeInv.count
  omega

end Merging

/-! One merge. -/

/-- The merge loop takes `m1` and `m2` off the queue (41_tree_builder.md R150). -/
structure Merge (tie : TieOrder) (freq : Vector Word 256) (q : List QEntry) (nodes : List Node) (m1 m2 : QEntry) : Prop where
  before : Merging tie freq q nodes
  first : ∃ pick, extract tie pick q = some m1
  second : ∃ pick, extract tie pick (remove m1 q) = some m2

namespace Merge

variable {tie : TieOrder} {freq : Vector Word 256} {q : List QEntry} {nodes : List Node} {m1 m2 : QEntry}

theorem perm (h : Merge tie freq q nodes m1 m2) : q.Perm (m1 :: m2 :: remove m2 (remove m1 q)) := by
  obtain ⟨_, h1⟩ := h.first
  obtain ⟨_, h2⟩ := h.second
  exact merge_queue_perm h.before.mergeInv.nodup (extract_mem h1) (extract_mem h2)

theorem left_mem (h : Merge tie freq q nodes m1 m2) : m1 ∈ q := h.perm.mem_iff.2 (by simp)

theorem right_mem (h : Merge tie freq q nodes m1 m2) : m2 ∈ q := h.perm.mem_iff.2 (by simp)

theorem idx_ne (h : Merge tie freq q nodes m1 m2) : m1.idx ≠ m2.idx := by
  have hnodup := (h.perm.map QEntry.idx).nodup_iff.1 h.before.mergeInv.nodup
  simp only [List.map_cons, List.nodup_cons, List.mem_cons, not_or] at hnodup
  exact hnodup.1.1

/-- The index of a queue element fits the 9 bits of a child field. -/
theorem toNat_idx (h : Merge tie freq q nodes m1 m2) {e : QEntry} (he : e ∈ q) : (BitVec.ofNat 9 e.idx).toNat = e.idx := by
  have := h.before.mergeInv.bound e he
  have := h.before.length_le
  rw [BitVec.toNat_ofNat, Nat.mod_eq_of_lt (by omega)]

end Merge

namespace Merging

variable {tie : TieOrder} {freq : Vector Word 256} {q : List QEntry} {nodes : List Node}

/-- A queue element has the weight of its node. -/
theorem weightOf_queued (h : Merging tie freq q nodes) : ∀ e ∈ q, weightOf nodes e.idx = e.w := by
  induction h with
  | leaves =>
    intro e he
    obtain ⟨i, hi, rfl⟩ := List.getElem_of_mem he
    have hw : ((queueFrom 0 (leafNodes freq)).map QEntry.w)[i]? = some (queueFrom 0 (leafNodes freq))[i].w := by simp [hi]
    rw [queueFrom_map_w, List.getElem?_map] at hw
    obtain ⟨x, hx, hxw⟩ := Option.map_eq_some_iff.1 hw
    rw [queueFrom_getElem_idx, weightOf, Nat.zero_add, hx, ← hxw, Option.getD_some]
  | @merge _ _ q nodes m1 m2 h h1 h2 ih =>
    have hm : Merge tie freq q nodes m1 m2 := ⟨h, ⟨_, h1⟩, ⟨_, h2⟩⟩
    intro e he
    obtain he | he := List.mem_append.1 he
    · have hmem : e ∈ q := hm.perm.mem_iff.2 (by simp [he])
      rw [weightOf_append (h.mergeInv.bound e hmem), ih e hmem]
    · obtain rfl := List.mem_singleton.1 he
      simp [weightOf, Node.weight]

/-- Every node is in the queue or the child of one node, and of one only. -/
theorem partition (h : Merging tie freq q nodes) :
    (q.map QEntry.idx ++ nodes.flatMap Node.children).Perm (List.range nodes.length) := by
  induction h with
  | leaves =>
    have hchildren : (leafNodes freq).flatMap Node.children = [] := by
      simp [leafNodes, leafOf, Node.children]
    rw [queueFrom_map_idx, hchildren, List.append_nil, List.range_eq_range']
  | @merge _ _ q nodes m1 m2 h h1 h2 ih =>
    have hm : Merge tie freq q nodes m1 m2 := ⟨h, ⟨_, h1⟩, ⟨_, h2⟩⟩
    have hq := hm.perm.map QEntry.idx
    simp only [List.map_append, List.map_cons, List.map_nil, List.flatMap_append, List.flatMap_cons, List.flatMap_nil,
      Node.children, hm.toNat_idx hm.left_mem, hm.toNat_idx hm.right_mem, List.length_append, List.length_cons, List.length_nil,
      List.append_nil, Nat.zero_add, List.range_succ]
    rw [List.perm_iff_count] at ih hq ⊢
    intro i
    have := ih i
    have := hq i
    simp only [List.map_cons, List.count_append, List.count_cons, List.count_nil] at *
    omega

theorem child_lt_length (h : Merging tie freq q nodes) {x : Node} (hx : x ∈ nodes) {c : Nat} (hc : c ∈ x.children) :
    c < nodes.length :=
  List.mem_range.1 (h.partition.mem_iff.1 (List.mem_append_right _ (List.mem_flatMap.2 ⟨x, hx, hc⟩)))

/-- The queue's weights sum to the sum of all counts. -/
theorem sum_queued (h : Merging tie freq q nodes) : (q.map fun e => e.w.toNat).sum = totalCount freq := by
  induction h with
  | leaves =>
    rw [← Function.comp_def BitVec.toNat, ← List.map_map, queueFrom_map_w, leafNodes, List.map_map, List.map_map]
    simp [Function.comp_def, sum_leafSymbols]
  | @merge _ _ q nodes m1 m2 h h1 h2 ih =>
    have hm : Merge tie freq q nodes m1 m2 := ⟨h, ⟨_, h1⟩, ⟨_, h2⟩⟩
    have hq := (hm.perm.map fun e => e.w.toNat).sum_eq
    have hlt := totalCount_lt freq
    simp only [List.map_append, List.map_cons, List.map_nil, List.sum_append, List.sum_cons, List.sum_nil, BitVec.toNat_add] at hq ⊢
    rw [Nat.mod_eq_of_lt (by omega)]
    omega

end Merging

namespace Merge

variable {tie : TieOrder} {freq : Vector Word 256} {q : List QEntry} {nodes : List Node} {m1 m2 : QEntry}

/-- The sum of the two weights does not wrap (41_tree_builder.md R154). -/
theorem toNat_add (h : Merge tie freq q nodes m1 m2) : (m1.w + m2.w).toNat = m1.w.toNat + m2.w.toNat := by
  have hsum := (h.perm.map fun e => e.w.toNat).sum_eq
  have := totalCount_lt freq
  have := h.before.sum_queued
  simp only [List.map_cons, List.sum_cons] at hsum
  rw [BitVec.toNat_add, Nat.mod_eq_of_lt (by omega)]

/-- What stays in the queue is no lighter than the two nodes taken off, and neither is the new node. -/
theorem le_queued (h : Merge tie freq q nodes m1 m2) {e : QEntry}
    (he : e ∈ remove m2 (remove m1 q) ++ [{ idx := nodes.length, w := m1.w + m2.w }]) : m1.w ≤ e.w ∧ m2.w ≤ e.w := by
  obtain ⟨_, h1⟩ := h.first
  obtain ⟨_, h2⟩ := h.second
  obtain he | he := List.mem_append.1 he
  · have he1 := (List.mem_filter.1 he).1
    exact ⟨extract_le h1 e (List.mem_filter.1 he1).1, extract_le h2 e he1⟩
  · obtain rfl := List.mem_singleton.1 he
    simp only [BitVec.le_def, h.toNat_add]
    omega

/-- Under SEQ the two nodes are taken off in the order of weight and index (41_tree_builder.md R153). -/
theorem ordered (h : Merge .seq freq q nodes m1 m2) : m1.w < m2.w ∨ (m1.w = m2.w ∧ m1.idx < m2.idx) := by
  obtain ⟨_, h1⟩ := h.first
  have := h.idx_ne
  exact (before_eq_false_iff.1 (before_extract_seq h1 m2 h.right_mem)).imp_right (And.imp_right (by omega))

end Merge

namespace Merging

variable {tie : TieOrder} {freq : Vector Word 256} {q : List QEntry} {nodes : List Node}

/-- Every internal node was made by a merge of the nodes before it, which have kept their weights. -/
theorem origin (h : Merging tie freq q nodes) {i : Nat} {l r : NodeIdx} {w : Weight}
    (hi : nodes[i]? = some (.internal l r w)) :
    ∃ q0 nodes0 m1 m2, Merge tie freq q0 nodes0 m1 m2 ∧ nodes0 <+: nodes ∧ nodes0.length = i ∧
      l.toNat = m1.idx ∧ r.toNat = m2.idx ∧ w = m1.w + m2.w := by
  induction h with
  | leaves => simp [leafNodes, leafOf] at hi
  | @merge _ _ q nodes m1 m2 h h1 h2 ih =>
    obtain hlt | hge := Nat.lt_or_ge i nodes.length
    · rw [List.getElem?_append_left hlt] at hi
      obtain ⟨q0, nodes0, n1, n2, hm, hpre, hrest⟩ := ih hi
      exact ⟨q0, nodes0, n1, n2, hm, hpre.trans (List.prefix_append _ _), hrest⟩
    · have hm : Merge tie freq q nodes m1 m2 := ⟨h, ⟨_, h1⟩, ⟨_, h2⟩⟩
      obtain ⟨hlt, -⟩ := List.getElem?_eq_some_iff.1 hi
      obtain rfl : i = nodes.length := by simp at hlt; omega
      rw [List.getElem?_concat_length] at hi
      cases hi
      exact ⟨q, nodes, m1, m2, hm, List.prefix_append _ _, rfl, hm.toNat_idx hm.left_mem, hm.toNat_idx hm.right_mem, rfl⟩

/-- A child is in the queue when its parent is made. -/
theorem child_was_queued (h : Merging tie freq q nodes) {i c : Nat} {x : Node} (hi : nodes[i]? = some x) (hc : c ∈ x.children) :
    ∃ q0 nodes0, Merging tie freq q0 nodes0 ∧ nodes0 <+: nodes ∧ nodes0.length = i ∧ ∃ e ∈ q0, e.idx = c := by
  cases x with
  | empty => simp [Node.children] at hc
  | leaf b w => simp [Node.children] at hc
  | internal l r w =>
    obtain ⟨q0, nodes0, m1, m2, hm, hpre, hlen, hl, hr, -⟩ := h.origin hi
    refine ⟨q0, nodes0, hm.before, hpre, hlen, ?_⟩
    obtain rfl | rfl : c = l.toNat ∨ c = r.toNat := by simpa [Node.children] using hc
    · exact ⟨m1, hm.left_mem, hl.symm⟩
    · exact ⟨m2, hm.right_mem, hr.symm⟩

/-- Children come before their parent (10_state.md R52 (d)). -/
theorem child_lt (h : Merging tie freq q nodes) {i c : Nat} {x : Node} (hi : nodes[i]? = some x) (hc : c ∈ x.children) : c < i := by
  obtain ⟨q0, nodes0, h0, -, rfl, e, he, rfl⟩ := h.child_was_queued hi hc
  exact h0.mergeInv.bound e he

/-- A child has one parent (10_state.md R52 (e)): when a later one is made, the child of the earlier one is not in the queue. -/
theorem parent_unique (h : Merging tie freq q nodes) {i j c : Nat} {x y : Node} (hi : nodes[i]? = some x)
    (hj : nodes[j]? = some y) (hx : c ∈ x.children) (hy : c ∈ y.children) : i = j := by
  wlog hle : i ≤ j generalizing i j x y
  · exact (this hj hi hy hx (by omega)).symm
  by_contra hne
  obtain ⟨q0, nodes0, h0, hpre, rfl, e, he, rfl⟩ := h.child_was_queued hj hy
  have hx0 := mem_of_prefix hpre (by omega) hi
  have hnodup := h0.partition.nodup_iff.2 List.nodup_range
  exact (List.nodup_append.1 hnodup).2.2 _ (List.mem_map_of_mem he) _ (List.mem_flatMap.2 ⟨x, hx0, hx⟩) rfl

/-- The weight of an internal node is the exact sum of its children's (41_tree_builder.md R154). -/
theorem weight_internal (h : Merging tie freq q nodes) {i : Nat} {l r : NodeIdx} {w : Weight}
    (hi : nodes[i]? = some (.internal l r w)) :
    w = weightOf nodes l.toNat + weightOf nodes r.toNat ∧
      w.toNat = (weightOf nodes l.toNat).toNat + (weightOf nodes r.toNat).toNat := by
  obtain ⟨q0, nodes0, m1, m2, hm, hpre, -, hl, hr, rfl⟩ := h.origin hi
  have hbound := hm.before.mergeInv.bound
  have hw := hm.before.weightOf_queued
  rw [hl, hr, weightOf_of_prefix hpre (hbound m1 hm.left_mem), weightOf_of_prefix hpre (hbound m2 hm.right_mem),
    hw m1 hm.left_mem, hw m2 hm.right_mem]
  exact ⟨rfl, hm.toNat_add⟩

/-- Under SEQ the children are in the order of weight and index (41_tree_builder.md R153). -/
theorem children_ordered (h : Merging .seq freq q nodes) {i : Nat} {l r : NodeIdx} {w : Weight}
    (hi : nodes[i]? = some (.internal l r w)) :
    weightOf nodes l.toNat < weightOf nodes r.toNat ∨ (weightOf nodes l.toNat = weightOf nodes r.toNat ∧ l < r) := by
  obtain ⟨q0, nodes0, m1, m2, hm, hpre, -, hl, hr, rfl⟩ := h.origin hi
  have hbound := hm.before.mergeInv.bound
  have hw := hm.before.weightOf_queued
  rw [BitVec.lt_def (x := l), hl, hr, weightOf_of_prefix hpre (hbound m1 hm.left_mem),
    weightOf_of_prefix hpre (hbound m2 hm.right_mem), hw m1 hm.left_mem, hw m2 hm.right_mem]
  exact hm.ordered

/-- No child is heavier than a node of the queue: the loop takes nodes off in the order of their weights. -/
theorem child_le_queued (h : Merging tie freq q nodes) :
    ∀ x ∈ nodes, ∀ c ∈ x.children, ∀ e ∈ q, weightOf nodes c ≤ e.w := by
  induction h with
  | leaves =>
    intro x hx c hc
    obtain ⟨b, -, rfl⟩ := List.mem_map.1 hx
    simp [leafOf, Node.children] at hc
  | @merge _ _ q nodes m1 m2 h h1 h2 ih =>
    intro x hx c hc e he
    have hm : Merge tie freq q nodes m1 m2 := ⟨h, ⟨_, h1⟩, ⟨_, h2⟩⟩
    obtain ⟨hle1, hle2⟩ := hm.le_queued he
    have hkept (m : QEntry) (hmem : m ∈ q) (more : List Node) : weightOf (nodes ++ more) m.idx = m.w := by
      rw [weightOf_append (h.mergeInv.bound m hmem), h.weightOf_queued m hmem]
    obtain hx | hx := List.mem_append.1 hx
    · rw [weightOf_append (h.child_lt_length hx hc)]
      exact BitVec.le_trans (ih x hx c hc m1 hm.left_mem) hle1
    · obtain rfl := List.mem_singleton.1 hx
      obtain hc | hc : c = m1.idx ∨ c = m2.idx := by
        simpa [Node.children, hm.toNat_idx hm.left_mem, hm.toNat_idx hm.right_mem, -BitVec.toNat_ofNat] using hc
      · rwa [hc, hkept m1 hm.left_mem]
      · rwa [hc, hkept m2 hm.right_mem]

/-- The children of an earlier node are no heavier than those of a later one. -/
theorem children_sorted (h : Merging tie freq q nodes) {i j c d : Nat} {x y : Node} (hij : i < j) (hi : nodes[i]? = some x)
    (hj : nodes[j]? = some y) (hc : c ∈ x.children) (hd : d ∈ y.children) : weightOf nodes c ≤ weightOf nodes d := by
  obtain ⟨q0, nodes0, h0, hpre, rfl, e, he, rfl⟩ := h.child_was_queued hj hd
  have hx0 := mem_of_prefix hpre hij hi
  rw [weightOf_of_prefix hpre (h0.child_lt_length hx0 hc), weightOf_of_prefix hpre (h0.mergeInv.bound e he),
    h0.weightOf_queued e he]
  exact h0.child_le_queued x hx0 c hc e he

end Merging

end Sys2Proof.Machine
end

section
/-! SUPPORT. The tree of BUILD (41_tree_builder.md R154 to R158): the merge loop's last state, read in the arena, and the depth of its
leaves. -/

namespace Sys2Proof.Machine

/-- The merge loop ends with at most one node in the queue. -/
theorem mergeLoop_merging (tie : TieOrder) (picks : Nat → Nat) (freq : Vector Word 256) :
    let q := queueFrom 0 (leafNodes freq)
    let loop := mergeLoop tie picks q.length 0 q (leafNodes freq)
    Merging tie freq loop.1 loop.2 ∧ loop.1.length ≤ 1 :=
  mergeLoop_induction (fun _ _ h => h.mergeInv.nodup) (fun _ _ _ _ _ h h1 h2 => h.merge h1 h2) _ 0 .leaves le_rfl

/-- BUILD fails on the empty map only (41_tree_builder.md R150). -/
theorem buildTree_eq_none_iff {tie : TieOrder} {picks : Nat → Nat} {freq : Vector Word 256} :
    buildTree tie picks freq = none ↔ leafSymbols freq = [] := by
  refine ⟨fun h => ?_, fun h => by simp [buildTree, h, queueFrom, mergeLoop]⟩
  by_contra hleaf
  have hne := (mergeLoop_merging tie picks freq).1.ne_nil hleaf
  unfold buildTree at h
  dsimp only at h
  split at h
  · next hloop => exact hne (congrArg Prod.fst hloop)
  · cases h

/-- The tree BUILD computes is the last state of the merge loop. -/
theorem buildTree_merging {tie : TieOrder} {picks : Nat → Nat} {freq : Vector Word 256} {T : Tree}
    (h : buildTree tie picks freq = some T) :
    ∃ root nodes, Merging tie freq [root] nodes ∧
      T = { arena := arenaOf nodes, nleaf := BitVec.ofNat 32 (leafSymbols freq).length, nnode := BitVec.ofNat 32 nodes.length,
            root := BitVec.ofNat 9 root.idx } := by
  obtain ⟨hm, hlen⟩ := mergeLoop_merging tie picks freq
  unfold buildTree at h
  dsimp only at h
  split at h
  · cases h
  · next root rest nodes hloop =>
    rw [leafNodes, hloop] at hm hlen
    obtain rfl : rest = [] := by simpa using hlen
    cases h
    exact ⟨root, nodes, hm, by rw [List.length_map]⟩

/-- The symbol of nonzero count whose rank is `j` is the `j`-th. -/
theorem leafSymbols_getElem?_rank {freq : Vector Word 256} {b : Byte} (hb : freqAt freq b ≠ 0) :
    (leafSymbols freq)[rank freq b.toNat]? = some b := by
  have hsplit : List.range 256 = List.range b.toNat ++ (List.range (255 - b.toNat + 1)).map (b.toNat + ·) := by
    rw [← List.range_add]
    congr 1
    omega
  have hrank : rank freq b.toNat =
      (((List.range b.toNat).map (BitVec.ofNat 8)).filter fun s => freqAt freq s != 0).length := by
    rw [rank, List.filter_map, List.length_map]
    rfl
  rw [leafSymbols, hsplit, List.map_append, List.filter_append, hrank, List.getElem?_append_right le_rfl, Nat.sub_self,
    List.range_succ_eq_map, List.map_cons, List.map_cons, Nat.add_zero, BitVec.ofNat_toNat, BitVec.setWidth_eq,
    List.filter_cons_of_pos (by simpa using hb)]
  rfl

/-! Walks in an arena. -/

/-- The last step of a walk is to a child. -/
theorem walk_concat {arena : Vector Node 511} {n m : NodeIdx} {p : List Bool} {c : Bool} (h : walk arena n (p ++ [c]) = some m) :
    ∃ parent, walk arena n p = some parent ∧ m.toNat ∈ (nodeAt arena parent).children := by
  induction p generalizing n with
  | nil =>
    refine ⟨n, rfl, ?_⟩
    rw [List.nil_append, walk] at h
    split at h
    · cases h
    · cases h
    · next l r w hn =>
      cases h
      cases c <;> simp [hn, Node.children]
  | cons d p ih =>
    rw [List.cons_append, walk] at h
    split at h
    · cases h
    · cases h
    · next l r w hn =>
      obtain ⟨parent, hp, hm⟩ := ih h
      exact ⟨parent, by rw [walk, hn]; exact hp, hm⟩

theorem toNat_mem_children_iff {m : NodeIdx} {x : Node} :
    m.toNat ∈ x.children ↔ ∃ l r w, x = .internal l r w ∧ (l = m ∨ r = m) := by
  cases x with
  | empty => simp [Node.children]
  | leaf b w => simp [Node.children]
  | internal l r w => simp [Node.children, BitVec.toNat_inj, eq_comm]

namespace Merging

variable {tie : TieOrder} {freq : Vector Word 256} {root : QEntry} {nodes : List Node}

/-- A tree of k leaves has 2k - 1 nodes (10_state.md R52). -/
theorem length_add_one (h : Merging tie freq [root] nodes) : nodes.length + 1 = 2 * (leafSymbols freq).length := h.mergeInv.count

theorem nodeAt_eq (h : Merging tie freq [root] nodes) (n : NodeIdx) :
    nodeAt (arenaOf nodes) n = nodes[n.toNat]?.getD .empty := by
  have hlen := h.length_le
  rw [nodeAt_arenaOf, List.take_of_length_le (Nat.le_of_lt_succ hlen)]

theorem getElem?_of_nodeAt (h : Merging tie freq [root] nodes) {n : NodeIdx} {x : Node} (hn : nodeAt (arenaOf nodes) n = x)
    (hx : x ≠ .empty) : nodes[n.toNat]? = some x :=
  (Option.getD_eq_iff.1 (h.nodeAt_eq n ▸ hn)).resolve_right fun hnone => hx hnone.2.symm

/-- A node of the arena with a child is one of the list. -/
theorem getElem?_of_child (h : Merging tie freq [root] nodes) {n : NodeIdx} {c : Nat}
    (hc : c ∈ (nodeAt (arenaOf nodes) n).children) : ∃ x, nodes[n.toNat]? = some x ∧ c ∈ x.children :=
  ⟨_, h.getElem?_of_nodeAt rfl fun hx => by simp [hx, Node.children] at hc, hc⟩

theorem weight_nodeAt (h : Merging tie freq [root] nodes) (n : NodeIdx) :
    (nodeAt (arenaOf nodes) n).weight = weightOf nodes n.toNat := by rw [h.nodeAt_eq, weightOf]

theorem toNat_root (h : Merging tie freq [root] nodes) : (BitVec.ofNat 9 root.idx).toNat = root.idx := by
  have := h.length_le
  have := h.mergeInv.bound root (by simp)
  simp only [List.length_singleton] at *
  rw [BitVec.toNat_ofNat, Nat.mod_eq_of_lt (by omega)]

/-- Every node but the root is a child. -/
theorem exists_parent (h : Merging tie freq [root] nodes) {c : Nat} (hc : c < nodes.length) (hroot : c ≠ root.idx) :
    ∃ (i : Nat) (x : Node), nodes[i]? = some x ∧ c ∈ x.children := by
  have hmem := h.partition.mem_iff.2 (List.mem_range.2 hc)
  simp only [List.map_cons, List.map_nil, List.singleton_append, List.mem_cons, hroot, false_or, List.mem_flatMap] at hmem
  obtain ⟨x, hx, hcx⟩ := hmem
  obtain ⟨i, hi⟩ := List.getElem?_of_mem hx
  exact ⟨i, x, hi, hcx⟩

/-- The root is no node's child (41_tree_builder.md R158). -/
theorem root_not_child (h : Merging tie freq [root] nodes) {i : Nat} {x : Node} (hi : nodes[i]? = some x) :
    root.idx ∉ x.children := by
  have hnodup := h.partition.nodup_iff.2 List.nodup_range
  intro hx
  exact (List.nodup_append.1 hnodup).2.2 _ (by simp) _ (List.mem_flatMap.2 ⟨x, List.mem_of_getElem? hi, hx⟩) rfl

/-- The root is the last node (41_tree_builder.md R155): a child would have a later parent. -/
theorem root_last (h : Merging tie freq [root] nodes) : root.idx + 1 = nodes.length := by
  have hbound := h.mergeInv.bound root (by simp)
  by_contra hne
  obtain ⟨i, x, hi, hc⟩ := h.exists_parent (c := nodes.length - 1) (by omega) (by omega)
  have := h.child_lt hi hc
  obtain ⟨hlt, -⟩ := List.getElem?_eq_some_iff.1 hi
  omega

/-- The root weighs the sum of all counts (41_tree_builder.md R154). -/
theorem weight_root (h : Merging tie freq [root] nodes) : (weightOf nodes root.idx).toNat = totalCount freq := by
  rw [h.weightOf_queued root (by simp)]
  simpa using h.sum_queued

/-- The first nodes are the leaves. -/
theorem getElem?_leaf (h : Merging tie freq [root] nodes) {i : Nat} {b : Byte} (hi : (leafSymbols freq)[i]? = some b) :
    nodes[i]? = some (leafOf freq b) := by
  obtain ⟨merged, rfl, -⟩ := h.exists_merged
  obtain ⟨hlt, -⟩ := List.getElem?_eq_some_iff.1 hi
  rw [List.getElem?_append_left (by simpa [leafNodes] using hlt), leafNodes, List.getElem?_map, hi]
  rfl

/-- The nodes after the leaves are internal. -/
theorem exists_internal (h : Merging tie freq [root] nodes) {i : Nat} (hi : (leafSymbols freq).length ≤ i)
    (hlt : i < nodes.length) : ∃ l r w, nodes[i]? = some (.internal l r w) := by
  obtain ⟨merged, rfl, hmerged⟩ := h.exists_merged
  have hleaves : (leafNodes freq).length = (leafSymbols freq).length := List.length_map _
  have hget : (leafNodes freq ++ merged)[i]? = merged[i - (leafNodes freq).length]? := List.getElem?_append_right (by omega)
  rw [List.getElem?_eq_getElem hlt] at hget ⊢
  obtain ⟨l, r, w, hx⟩ := hmerged _ (List.mem_of_getElem? hget.symm)
  exact ⟨l, r, w, congrArg some hx⟩

/-- A leaf of the tree is a leaf of BUILD. -/
theorem eq_leafOf (h : Merging tie freq [root] nodes) {i : Nat} {b : Byte} {w : Weight} (hi : nodes[i]? = some (.leaf b w)) :
    Node.leaf b w = leafOf freq b := by
  obtain ⟨merged, rfl, hmerged⟩ := h.exists_merged
  obtain hx | hx := List.mem_append.1 (List.mem_of_getElem? hi)
  · obtain ⟨a, -, ha⟩ := List.mem_map.1 hx
    simp only [leafOf, Node.leaf.injEq] at ha ⊢
    obtain ⟨rfl, rfl⟩ := ha
    simp
  · obtain ⟨_, _, _, hx⟩ := hmerged _ hx
    cases hx

/-- The last state of the merge loop has the shape of a tree (10_state.md R52, 41_tree_builder.md R155, R158). -/
theorem treeShape (h : Merging tie freq [root] nodes) :
    TreeShape (arenaOf nodes) (leafSymbols freq).length (BitVec.ofNat 9 root.idx) where
  leaves n hn := by
    have hb := List.getElem?_eq_getElem hn
    exact ⟨_, _, by rw [h.nodeAt_eq, h.getElem?_leaf hb]; rfl⟩
  internals n hk hn := by
    have hlen := h.length_add_one
    obtain ⟨l, r, w, hi⟩ := h.exists_internal hk (by omega)
    obtain ⟨q0, nodes0, m1, m2, hm, -, hi0, hl, hr, -⟩ := h.origin hi
    have hne := hm.idx_ne
    refine ⟨l, r, ?_, h.child_lt hi (by simp [Node.children]), h.child_lt hi (by simp [Node.children]), fun hlr => ?_⟩
    · rw [h.nodeAt_eq, hi, h.weight_nodeAt, h.weight_nodeAt, ← (h.weight_internal hi).1]
      rfl
    · rw [hlr] at hl
      omega
  empties n hn := by
    have hlen := h.length_add_one
    rw [h.nodeAt_eq, List.getElem?_eq_none (by omega)]
    rfl
  oneParent m hm hroot := by
    have hlen := h.length_add_one
    have hidx : m.toNat ≠ root.idx := fun hmr => hroot (BitVec.eq_of_toNat_eq (hmr.trans h.toNat_root.symm))
    obtain ⟨i, x, hi, hc⟩ := h.exists_parent (by omega) hidx
    obtain ⟨hlt, -⟩ := List.getElem?_eq_some_iff.1 hi
    have hsize := h.length_le
    have hin : (BitVec.ofNat 9 i).toNat = i := by
      rw [BitVec.toNat_ofNat, Nat.mod_eq_of_lt (by simp at hsize; omega)]
    simp only [← toNat_mem_children_iff]
    refine ⟨BitVec.ofNat 9 i, ?_, fun n hn => ?_⟩
    · dsimp only
      rwa [h.nodeAt_eq, hin, hi]
    · obtain ⟨y, hj, hy⟩ := h.getElem?_of_child hn
      exact BitVec.eq_of_toNat_eq ((h.parent_unique hj hi hy hc).trans hin.symm)
  rootLast := by
    have hlen := h.length_add_one
    have hlast := h.root_last
    rw [h.toNat_root]
    omega
  rootFree n l r w hn := by
    have hnot := h.root_not_child (h.getElem?_of_nodeAt hn nofun)
    rw [← h.toNat_root] at hnot
    simp only [Node.children, List.mem_cons, List.not_mem_nil, or_false, not_or, BitVec.toNat_inj] at hnot
    exact ⟨Ne.symm hnot.1, Ne.symm hnot.2⟩

/-- A child and its sibling make up the weight of their parent. -/
theorem exists_sibling (h : Merging tie freq [root] nodes) {i c : Nat} {x : Node} (hi : nodes[i]? = some x) (hc : c ∈ x.children) :
    ∃ d ∈ x.children, (weightOf nodes i).toNat = (weightOf nodes c).toNat + (weightOf nodes d).toNat := by
  cases x with
  | empty => simp [Node.children] at hc
  | leaf b w => simp [Node.children] at hc
  | internal l r w =>
    have hw : weightOf nodes i = w := by rw [weightOf, hi]; rfl
    obtain ⟨-, hsum⟩ := h.weight_internal hi
    rw [hw, hsum]
    obtain rfl | rfl : c = l.toNat ∨ c = r.toNat := by simpa [Node.children] using hc
    · exact ⟨r.toNat, by simp [Node.children], rfl⟩
    · exact ⟨l.toNat, by simp [Node.children], Nat.add_comm _ _⟩

/-- A heavier node has a parent at least as far up: the same one, or a heavier one, since its parent is not made before the other's,
and no child of an earlier node outweighs one of a later node. -/
theorem parent_lt_or_eq (h : Merging tie freq [root] nodes) {i j c d : Nat} {x y : Node} (hi : nodes[i]? = some x)
    (hj : nodes[j]? = some y) (hc : c ∈ x.children) (hd : d ∈ y.children) (hlt : weightOf nodes c < weightOf nodes d) :
    i = j ∨ weightOf nodes i < weightOf nodes j := by
  obtain hij | hij | hij := Nat.lt_trichotomy i j
  · obtain ⟨c', hc', hsum⟩ := h.exists_sibling hi hc
    obtain ⟨d', hd', hsum'⟩ := h.exists_sibling hj hd
    have hle := h.children_sorted hij hi hj hc' hd'
    rw [BitVec.lt_def] at hlt ⊢
    rw [BitVec.le_def] at hle
    exact .inr (by omega)
  · exact .inl hij
  · exact absurd (h.children_sorted hij hj hi hd hc) (BitVec.not_le.2 hlt)

/-- A node that weighs more than another, or is the same, lies no deeper. -/
theorem walk_length_le (h : Merging tie freq [root] nodes) {p p' : List Bool} {n n' : NodeIdx}
    (hp : walk (arenaOf nodes) (BitVec.ofNat 9 root.idx) p = some n)
    (hp' : walk (arenaOf nodes) (BitVec.ofNat 9 root.idx) p' = some n')
    (hle : n = n' ∨ weightOf nodes n.toNat < weightOf nodes n'.toNat) : p'.length ≤ p.length := by
  induction p using List.reverseRecOn generalizing n n' p' with
  | nil =>
    obtain rfl : BitVec.ofNat 9 root.idx = n := Option.some.inj hp
    obtain rfl | ⟨q', c', rfl⟩ := List.eq_nil_or_concat' p'
    · exact le_rfl
    · obtain ⟨parent', -, hchild'⟩ := walk_concat hp'
      obtain ⟨y, hj, hy⟩ := h.getElem?_of_child hchild'
      obtain rfl | hlt := hle
      · exact absurd (h.toNat_root ▸ hy) (h.root_not_child hj)
      · rw [h.toNat_root, h.weightOf_queued root (by simp)] at hlt
        exact absurd hlt (BitVec.not_lt.2 (h.child_le_queued y (List.mem_of_getElem? hj) _ hy root (by simp)))
  | append_singleton q c ih =>
    obtain rfl | ⟨q', c', rfl⟩ := List.eq_nil_or_concat' p'
    · exact Nat.zero_le _
    · obtain ⟨parent, hq, hchild⟩ := walk_concat hp
      obtain ⟨parent', hq', hchild'⟩ := walk_concat hp'
      obtain ⟨x, hi, hx⟩ := h.getElem?_of_child hchild
      obtain ⟨y, hj, hy⟩ := h.getElem?_of_child hchild'
      have hparents : parent.toNat = parent'.toNat ∨ weightOf nodes parent.toNat < weightOf nodes parent'.toNat := by
        obtain rfl | hlt := hle
        · exact .inl (h.parent_unique hi hj hx hy)
        · exact h.parent_lt_or_eq hi hj hx hy hlt
      simpa using ih hq hq' (hparents.imp_left BitVec.eq_of_toNat_eq)

theorem toNat_weightOf_leaf (h : Merging tie freq [root] nodes) {n : NodeIdx} {b : Byte}
    (hleaf : (nodeAt (arenaOf nodes) n).isLeaf = true) (hb : (nodeAt (arenaOf nodes) n).symbol = b) :
    (weightOf nodes n.toNat).toNat = (freqAt freq b).toNat := by
  rw [← h.weight_nodeAt]
  cases hn : nodeAt (arenaOf nodes) n with
  | empty => simp [hn, Node.isLeaf] at hleaf
  | internal l r w => simp [hn, Node.isLeaf] at hleaf
  | leaf a w =>
    obtain rfl : a = b := by simpa [hn, Node.symbol] using hb
    rw [h.eq_leafOf (h.getElem?_of_nodeAt hn nofun), toNat_weight_leafOf]

/-- A symbol of greater count has no longer code (42_code_assigner.md R176). -/
theorem code_length_le (h : Merging tie freq [root] nodes) {p p' : List Bool} {b b' : Byte}
    (hp : CodeOf (arenaOf nodes) (BitVec.ofNat 9 root.idx) p b) (hp' : CodeOf (arenaOf nodes) (BitVec.ofNat 9 root.idx) p' b')
    (hlt : freqAt freq b < freqAt freq b') : p'.length ≤ p.length := by
  rw [CodeOf] at hp hp'
  split at hp
  · next hleaf =>
    rw [if_pos hleaf] at hp'
    exact absurd hlt (by rw [← hp.2, ← hp'.2]; exact BitVec.lt_irrefl _)
  · next hleaf =>
    rw [if_neg hleaf] at hp'
    obtain ⟨n, hwalk, hn, hb⟩ := hp
    obtain ⟨n', hwalk', hn', hb'⟩ := hp'
    refine h.walk_length_le hwalk hwalk' (.inr ?_)
    rw [BitVec.lt_def, h.toNat_weightOf_leaf hn hb, h.toNat_weightOf_leaf hn' hb']
    exact hlt

end Merging

/-- In a state that meets the invariant with TREE_VALID = 1, the tree registers and the arena are those of a last state of the merge
loop. -/
theorem Inv.exists_merging {s : State} (hi : Inv s) (hv : s.treeValid = true) :
    ∃ root nodes, Merging s.params.tie s.freq [root] nodes ∧ s.arena = arenaOf nodes ∧ s.root = BitVec.ofNat 9 root.idx ∧
      s.nleaf.toNat = (leafSymbols s.freq).length := by
  obtain ⟨picks, hb⟩ := hi.treeBuilt hv
  obtain ⟨root, nodes, hm, hT⟩ := buildTree_merging hb
  obtain ⟨ha, hn, -, hr⟩ := Tree.mk.inj hT
  have := leafSymbols_length_le s.freq
  exact ⟨root, nodes, hm, ha, hr, by rw [hn, BitVec.toNat_ofNat, Nat.mod_eq_of_lt (by omega)]⟩

end Sys2Proof.Machine
end

section
/-! SUPPORT. Which symbols the code table of ASSIGN holds (42_code_assigner.md R175). -/

namespace Sys2Proof.Machine

variable {s t : State}

/-- Every symbol of a tree has a path. -/
theorem CodeTree.path_ne_none {b : Byte} {t : CodeTree} (h : b ∈ t.symbols) : t.path b ≠ none := by
  induction t with
  | leaf a =>
    obtain rfl : b = a := by simpa [symbols] using h
    simp [path]
  | node l r ihl ihr =>
    simp only [symbols, List.mem_append] at h
    simp only [path, ne_eq, Option.or_eq_none_iff, Option.map_eq_none_iff, not_and_or]
    exact h.symm.imp ihr ihl

/-- The code table of a tree gives its symbols a code, and no others. -/
theorem CodeTree.codeTable_present_iff {t : CodeTree} {b : Byte} : (codeAt t.codeTable b).present = true ↔ b ∈ t.symbols := by
  have hcode : t.code b ≠ none ↔ b ∈ t.symbols := by
    cases t with
    | leaf a => simp [code, symbols, eq_comm]
    | node l r => exact ⟨fun h => by_contra fun hb => h (path_eq_none hb), path_ne_none⟩
  rw [codeAt_codeTable, ← hcode]
  cases t.code b <;> simp

/-- ASSIGN without error leaves the tree and FREQ as they were, and the code of every symbol of nonzero count, and of no other, in
the CODE table. -/
theorem execAssign_of_err_none (hi : Inv s) (h : exec .assign s = .next t) (herr : t.err = none) :
    s.treeValid = true ∧ t.freq = s.freq ∧ t.nleaf = s.nleaf ∧
      (∀ b, (codeAt t.codes b).present = true ↔ freqAt s.freq b ≠ 0) ∧
      ∀ b, freqAt s.freq b ≠ 0 → CodeOf s.arena s.root (codeAt t.codes b).code b := by
  obtain ⟨-, rfl⟩ | ⟨hv, codes, -, rfl⟩ := execAssign_cases h
  · cases herr
  obtain ⟨picks, hb⟩ := hi.treeBuilt hv
  obtain ⟨c, hc, hperm⟩ := buildTree_isAt hb
  have hs : HoldsTree s c :=
    ⟨hv, hc, hperm.nodup_iff.2 (leafSymbols_nodup _), hperm.length_eq.trans_le (leafSymbols_length_le _)⟩
  have hpresent (b : Byte) : (codeAt c.codeTable b).present = true ↔ freqAt s.freq b ≠ 0 := by
    rw [CodeTree.codeTable_present_iff, hperm.mem_iff, mem_leafSymbols]
  rw [execAssign_codes hs h]
  exact ⟨hv, rfl, rfl, hpresent, fun b hb => hs.codeOf_of_present ((hpresent b).2 hb)⟩

end Sys2Proof.Machine
end

section
/-! SUPPORT. The statements of 41_tree_builder.md, and those about codes that rest on the order of the merges. -/

namespace Sys2Proof.Machine

theorem leafSymbols_eq_nil_iff {freq : Vector Word 256} : leafSymbols freq = [] ↔ ∀ b, freqAt freq b = 0 := by
  simp only [List.eq_nil_iff_forall_not_mem, mem_leafSymbols, not_not]

/-- Settles O14: BUILD leaves the last state of the merge loop, with the leaf of the j-th symbol at node j. -/
theorem buildMakesATree : Obligations.BuildMakesATree := by
  intro s ⟨a, ha⟩
  obtain ⟨T, hT⟩ : ∃ T, buildTree s.params.tie (Config.freePick s.draws) s.freq = some T := by
    rw [← Option.ne_none_iff_exists', ne_eq, buildTree_eq_none_iff, leafSymbols_eq_nil_iff]
    exact fun h => ha (h a)
  obtain ⟨root, nodes, hm, rfl⟩ := buildTree_merging hT
  have hle := leafSymbols_length_le s.freq
  have hlen := hm.length_add_one
  rw [rank_eq_length_leafSymbols]
  refine ⟨arenaOf nodes, BitVec.ofNat 32 (leafSymbols s.freq).length, BitVec.ofNat 32 nodes.length, BitVec.ofNat 9 root.idx,
    by rw [exec, execBuild, hT]; rfl, ?_, ?_, hm.treeShape, fun b hb => ?_⟩
  · rw [BitVec.toNat_ofNat, Nat.mod_eq_of_lt (by omega)]
  · rw [BitVec.toNat_ofNat, Nat.mod_eq_of_lt (by omega)]
    omega
  · have hrank := leafSymbols_getElem?_rank hb
    obtain ⟨hlt, -⟩ := List.getElem?_eq_some_iff.1 hrank
    rw [nodeAt_arenaOf_of_getElem? (by omega) (hm.getElem?_leaf hrank), leafOf, ← BitVec.ofNat_toNat]

/-- Settles O15: with no leaf the loop ends with the empty queue. -/
theorem buildEmptyInput : Obligations.BuildEmptyInput := by
  intro s h
  rw [exec, execBuild, buildTree_eq_none_iff.2 (leafSymbols_eq_nil_iff.2 h)]
  rfl

/-- Settles O17: the left child was extracted before the right one. -/
theorem childrenAreInExtractionOrder : Obligations.ChildrenAreInExtractionOrder := by
  intro s hi hv htie n l r w hn
  obtain ⟨root, nodes, hm, ha, -⟩ := hi.exists_merging hv
  rw [htie] at hm
  rw [ha] at hn ⊢
  rw [hm.weight_nodeAt, hm.weight_nodeAt]
  exact hm.children_ordered (hm.getElem?_of_nodeAt hn nofun)

/-- Settles O18: every weight is at most the sum of all counts, which 40 bits hold. -/
theorem weightsNeverWrap : Obligations.WeightsNeverWrap := by
  intro s hi hv
  obtain ⟨root, nodes, hm, ha, hr, -⟩ := hi.exists_merging hv
  rw [ha, hr]
  refine ⟨fun n b w hn => ?_, fun n l r w hn => ?_, ?_⟩
  · rw [← toNat_weight_leafOf, ← hm.eq_leafOf (hm.getElem?_of_nodeAt hn nofun)]
    rfl
  · rw [hm.weight_nodeAt, hm.weight_nodeAt]
    exact (hm.weight_internal (hm.getElem?_of_nodeAt hn nofun)).2
  · rw [hm.weight_nodeAt, hm.toNat_root]
    exact hm.weight_root

/-- Under SEQ the choices of the merge loop play no part (41_tree_builder.md R159). -/
theorem mergeLoop_seq_picks (picks picks' : Nat → Nat) (fuel t : Nat) (q : List QEntry) (nodes : List Node) :
    mergeLoop .seq picks fuel t q nodes = mergeLoop .seq picks' fuel t q nodes := by
  induction fuel generalizing t q nodes with
  | zero => rfl
  | succ fuel ih =>
    simp only [mergeLoop, ih, extract_seq_pick (picks t) (picks' t), extract_seq_pick (picks (t + 1)) (picks' (t + 1))]

theorem buildTree_seq_picks (picks picks' : Nat → Nat) (freq : Vector Word 256) :
    buildTree .seq picks freq = buildTree .seq picks' freq := by
  simp only [buildTree, mergeLoop_seq_picks picks picks']

/-- Settles O19: the two BUILDs compute the same tree, or none. -/
theorem buildDependsOnFreqAlone : Obligations.BuildDependsOnFreqAlone := by
  intro s1 s2 t1 t2 htie1 htie2 hfreq h1 h2
  have htrees : buildTree s1.params.tie (Config.freePick s1.draws) s1.freq =
      buildTree s2.params.tie (Config.freePick s2.draws) s2.freq := by
    rw [htie1, htie2, hfreq]
    exact buildTree_seq_picks _ _ _
  obtain ⟨hb1, rfl⟩ | ⟨T1, hb1, rfl⟩ := execBuild_cases h1
  · obtain ⟨-, rfl⟩ | ⟨T2, hb2, rfl⟩ := execBuild_cases h2
    · exact ⟨rfl, rfl, rfl, rfl, rfl, rfl⟩
    · cases (hb1.symm.trans htrees).trans hb2
  · obtain ⟨hb2, rfl⟩ | ⟨T2, hb2, rfl⟩ := execBuild_cases h2
    · cases (hb1.symm.trans htrees).trans hb2
    · cases (hb1.symm.trans htrees).trans hb2
      exact ⟨rfl, rfl, rfl, rfl, rfl, rfl⟩

/-- Settles O37: both validity flags are 0, and each command checks its flag first. -/
theorem emptyInputStaysFatal : Obligations.EmptyInputStaysFatal := by
  intro s t h herr
  obtain ⟨-, rfl⟩ | ⟨_, -, rfl⟩ := execBuild_cases h
  · exact ⟨rfl, rfl, ⟨_, rfl, rfl⟩, ⟨_, rfl, rfl⟩, ⟨_, rfl, rfl⟩⟩
  · cases herr

/-- Settles O22: the codes are those of the tree's symbols, which are the symbols of nonzero count. -/
theorem codesCoverTheSymbols : Obligations.CodesCoverTheSymbols := by
  intro s t hi h herr
  obtain ⟨hv, hfreq, hnleaf, hpresent, -⟩ := execAssign_of_err_none hi h herr
  obtain ⟨_, _, -, -, -, hcount⟩ := hi.exists_merging hv
  rw [hfreq, hnleaf, hcount, ← rank_eq_length_leafSymbols, rank]
  refine ⟨hpresent, congrArg List.length (List.filter_congr fun b _ => ?_)⟩
  rw [Bool.eq_iff_iff, hpresent, bne_iff_ne]

/-- Settles O24: a heavier leaf lies no deeper. -/
theorem frequentSymbolsHaveShortCodes : Obligations.FrequentSymbolsHaveShortCodes := by
  intro s t hi h herr a b hb hlt
  obtain ⟨hv, hfreq, -, -, hcodes⟩ := execAssign_of_err_none hi h herr
  rw [hfreq] at hb hlt
  obtain ⟨root, nodes, hm, harena, hroot, -⟩ := hi.exists_merging hv
  have ha : freqAt s.freq a ≠ 0 := fun h0 => absurd hlt (by simp [h0])
  have hcode_a := hcodes a ha
  have hcode_b := hcodes b hb
  rw [harena, hroot] at hcode_a hcode_b
  have hle := hm.code_length_le hcode_b hcode_a hlt
  rwa [codeEntry_code_length, codeEntry_code_length] at hle

end Sys2Proof.Machine
end

section
/-! SUPPORT. The code table of ASSIGN as a whole (42_code_assigner.md R174, R177): its codes are prefix-free, and their Kraft sum. -/

namespace Sys2Proof.Machine

variable {s t : State}

/-! Prefix-freeness: a walk that has come to a leaf goes no further. -/

theorem walk_append (arena : Vector Node 511) (n : NodeIdx) (p q : List Bool) :
    walk arena n (p ++ q) = (walk arena n p).bind (walk arena · q) := by
  induction p generalizing n with
  | nil => rfl
  | cons b p ih =>
    rw [List.cons_append, walk, walk]
    cases nodeAt arena n with
    | empty | leaf => rfl
    | internal l r w => exact ih _

theorem walk_from_leaf {arena : Vector Node 511} {n m : NodeIdx} {p : List Bool} (hn : (nodeAt arena n).isLeaf = true)
    (h : walk arena n p = some m) : n = m := by
  cases p with
  | nil => exact Option.some.inj h
  | cons b p =>
    rw [walk] at h
    cases hnode : nodeAt arena n with
    | empty | leaf => simp [hnode] at h
    | internal => simp [hnode, Node.isLeaf] at hn

/-- A code that is a prefix of another is the code of the same symbol. -/
theorem CodeOf.symbol_eq_of_prefix {arena : Vector Node 511} {root : NodeIdx} {p q : List Bool} {a b : Byte}
    (hp : CodeOf arena root p a) (hq : CodeOf arena root q b) (hpq : p <+: q) : a = b := by
  rw [CodeOf] at hp hq
  split at hp
  · next hroot =>
    rw [if_pos hroot] at hq
    exact hp.2.symm.trans hq.2
  · next hroot =>
    rw [if_neg hroot] at hq
    obtain ⟨n, hwalk, hleaf, rfl⟩ := hp
    obtain ⟨m, hwalk', -, rfl⟩ := hq
    obtain ⟨r, rfl⟩ := hpq
    rw [walk_append, hwalk] at hwalk'
    rw [walk_from_leaf hleaf hwalk']

/-- Settles O21: the codes are paths to leaves, and the path to a leaf does not lead on to another one. -/
theorem codesArePrefixFree : Obligations.CodesArePrefixFree := by
  intro s t hi h herr a b hne ha hb hprefix
  obtain ⟨-, -, -, hpresent, hcodes⟩ := execAssign_of_err_none hi h herr
  exact hne ((hcodes a ((hpresent a).1 ha)).symbol_eq_of_prefix (hcodes b ((hpresent b).1 hb)) hprefix)

/-! The Kraft sum. -/

/-- The sum over the leaves below a node at depth `d`, in units of 2^(-n): each of its children has half of it. -/
theorem CodeTree.kraft_sum {c : CodeTree} {n d : Nat} {len : Byte → Nat} (hnodup : c.symbols.Nodup)
    (hlen : ∀ b p, c.path b = some p → len b = d + p.length) (hn : d + c.symbols.length ≤ n + 1) :
    (c.symbols.map fun b => 2 ^ (n - len b)).sum = 2 ^ (n - d) := by
  induction c generalizing d with
  | leaf a => simp [symbols, hlen a [] (by simp [path])]
  | node l r ihl ihr =>
    have hl := l.symbols_length_pos
    have hr := r.symbols_length_pos
    have hchild (right : Bool) (b : Byte) (p : List Bool) (h : (if right then r else l).path b = some p) :
        len b = d + 1 + p.length := by
      rw [hlen b (right :: p) ((path_node_eq_some_iff hnodup).2 h), List.length_cons]
      omega
    obtain ⟨hnodupl, hnodupr, -⟩ := List.nodup_append.1 hnodup
    rw [symbols, List.length_append] at hn
    rw [symbols, List.map_append, List.sum_append, ihl hnodupl (hchild false) (by omega),
      ihr hnodupr (hchild true) (by omega), ← Nat.two_mul, ← Nat.pow_succ', show (n - (d + 1)).succ = n - d by omega]

/-- The length that the code table gives a symbol. -/
theorem CodeTree.codeTable_len {c : CodeTree} (hlen : c.symbols.length ≤ 256) {b : Byte} {p : List Bool}
    (hp : c.code b = some p) : (codeAt c.codeTable b).len.toNat = p.length := by
  rw [← codeEntry_code_length, codeAt_codeTable, hp]
  exact congrArg List.length (code_ofCode p (code_length_le hlen hp))

/-- The Kraft sum of a tree's code table: 1, or 1/2 for the code "0" of a leaf root (42_code_assigner.md R172). -/
theorem CodeTree.codeTable_kraft_sum {c : CodeTree} (hnodup : c.symbols.Nodup) (hlen : c.symbols.length ≤ 256) :
    (c.symbols.map fun b => 2 ^ (255 - (codeAt c.codeTable b).len.toNat)).sum =
      if 2 ≤ c.symbols.length then 2 ^ 255 else 2 ^ 254 := by
  cases c with
  | leaf a =>
    have ha : (codeAt (leaf a).codeTable a).len.toNat = 1 := codeTable_len (p := singleLeafCode) hlen (by simp [code])
    simp [symbols, ha]
  | node l r =>
    have hl := l.symbols_length_pos
    have hr := r.symbols_length_pos
    rw [if_pos (by rw [symbols, List.length_append]; omega)]
    exact kraft_sum (d := 0) hnodup (fun b p hp => (codeTable_len hlen hp).trans (Nat.zero_add _).symm) (by omega)

/-- A sum over the byte values that have a property is the sum over a list of them. -/
theorem sum_allBytes_ite {present : Byte → Bool} {l : List Byte} (hl : l.Nodup) (h : ∀ b, present b = true ↔ b ∈ l)
    (f : Byte → Nat) :
    (((List.range 256).map (BitVec.ofNat 8)).map fun b => if present b then f b else 0).sum = (l.map f).sum := by
  rw [← List.sum_toFinset _ allBytes_nodup, ← List.sum_toFinset _ hl, ← Finset.sum_filter]
  refine Finset.sum_congr (Finset.ext fun b => ?_) fun _ _ => rfl
  rw [Finset.mem_filter, List.mem_toFinset, List.mem_toFinset, h]
  exact and_iff_right (mem_allBytes b)

/-- ASSIGN without error leaves the code table of a tree with NLEAF leaves. -/
theorem execAssign_exists_codeTable (hi : Inv s) (h : exec .assign s = .next t) (herr : t.err = none) :
    ∃ c, HoldsTree s c ∧ t.codes = c.codeTable ∧ t.nleaf.toNat = c.symbols.length := by
  obtain ⟨hv, -, hnleaf, -, -⟩ := execAssign_of_err_none hi h herr
  obtain ⟨_, _, -, -, -, hcount⟩ := hi.exists_merging hv
  obtain ⟨_, hb⟩ := hi.treeBuilt hv
  obtain ⟨c, hc, hperm⟩ := buildTree_isAt hb
  have hs : HoldsTree s c :=
    ⟨hv, hc, hperm.nodup_iff.2 (leafSymbols_nodup _), hperm.length_eq.trans_le (leafSymbols_length_le _)⟩
  exact ⟨c, hs, execAssign_codes hs h, by rw [hnleaf, hcount, hperm.length_eq]⟩

/-- Settles O23: the codes are the paths of a tree, whose Kraft sum is computed from the leaves up. -/
theorem kraftEquality : Obligations.KraftEquality := by
  intro s t hi h herr
  obtain ⟨c, hs, hcodes, hnleaf⟩ := execAssign_exists_codeTable hi h herr
  rw [hcodes, hnleaf, sum_allBytes_ite hs.nodup fun b => CodeTree.codeTable_present_iff]
  exact CodeTree.codeTable_kraft_sum hs.nodup hs.length_le

end Sys2Proof.Machine
end

section
/-! SUPPORT. ENCODE (43_encoder.md): what it does with a readable input, and what it makes of its own result. -/

namespace Sys2Proof.Machine

variable {s : State}

/-! Reading the input. -/

/-- Operands that are all written are read, from the first. -/
theorem readAll_range {α : Type} {f : Nat → Option α} {n : Nat} {g : Nat → α} (h : ∀ i, i < n → f i = some (g i)) :
    readAll f n 0 = .ok ((List.range n).map g) := by
  rw [List.range_eq_range']
  exact readAll_eq_ok g (by simpa using h)

/-- What is read depends on the operands read alone. -/
theorem readAll_congr {α : Type} {f g : Nat → Option α} {k i : Nat} (h : ∀ j, i ≤ j → j < i + k → f j = g j) :
    readAll f k i = readAll g k i := by
  induction k generalizing i with
  | zero => rfl
  | succ k ih => rw [readAll, readAll, h i le_rfl (by omega), ih fun j hj hlt => h j (by omega) (by omega)]

/-- An input splits at each of its indices. -/
theorem exists_map_range_eq_append {α : Type} {k n : Nat} (hk : k < n) (f : Nat → α) :
    ∃ rest, (List.range n).map f = (List.range k).map f ++ f k :: rest := by
  obtain ⟨m, rfl⟩ := Nat.exists_eq_add_of_lt hk
  exact ⟨(List.range m).map fun i => f (k + (i + 1)), by simp [Nat.add_assoc, List.range_add, List.range_succ_eq_map]⟩

/-! The loop on symbols whose codes fit (43_encoder.md R180). -/

/-- Symbols that have codes, with a stream that fits, are encoded one after the other. -/
theorem encodeLoop_codes {codes : Vector CodeEntry 256} {bitCap : Nat} {pre : List Byte}
    (hpre : ∀ b ∈ pre, (codeAt codes b).present = true) (rest : List Byte) (i : Nat) (out : List Bool)
    (hfit : (out ++ pre.flatMap fun b => (codeAt codes b).code).length ≤ bitCap) :
    encodeLoop codes bitCap (pre ++ rest) i out =
      encodeLoop codes bitCap rest (i + pre.length) (out ++ pre.flatMap fun b => (codeAt codes b).code) := by
  induction pre generalizing i out with
  | nil => simp
  | cons b pre ih =>
    obtain ⟨hb, hpre⟩ := List.forall_mem_cons.1 hpre
    rw [List.flatMap_cons, ← List.append_assoc] at hfit ⊢
    have hcode : ¬bitCap < out.length + (codeAt codes b).len.toNat := by
      rw [← codeEntry_code_length, ← List.length_append]
      rw [List.length_append] at hfit
      omega
    rw [List.cons_append, encodeLoop, if_neg (by simp [hb]), if_neg hcode, ih hpre (i + 1) _ hfit, List.length_cons,
      Nat.add_assoc, Nat.add_comm 1]

/-- The loop stops at a symbol with no code (43_encoder.md R181). -/
theorem encodeLoop_of_no_code {codes : Vector CodeEntry 256} {b : Byte} (hb : (codeAt codes b).present = false) (bitCap : Nat)
    (rest : List Byte) (i : Nat) (out : List Bool) :
    encodeLoop codes bitCap (b :: rest) i out = (out, some { kind := .unknownSymbol, info := BitVec.ofNat 32 i }) := by
  rw [encodeLoop, if_pos hb]

/-- The loop stops at a symbol whose code does not fit (43_encoder.md R182). -/
theorem encodeLoop_of_overflow {codes : Vector CodeEntry 256} {bitCap : Nat} {b : Byte} {out : List Bool}
    (hb : (codeAt codes b).present = true) (hfull : bitCap < out.length + (codeAt codes b).len.toNat) (rest : List Byte)
    (i : Nat) :
    encodeLoop codes bitCap (b :: rest) i out = (out, some { kind := .outputOverflow, info := BitVec.ofNat 32 i }) := by
  rw [encodeLoop, if_neg (by simp [hb]), if_pos hfull]

/-! The command. -/

/-- ENCODE past its checks stores what the loop emits and reports how it ended (43_encoder.md R180). -/
theorem execEncode_of_encodeLoop {l : List Byte} {out : List Bool} {r : Option Raise} (hv : s.codesValid = true)
    (hlen : s.inLen.toNat ≤ s.params.symCap) (hread : readAll s.symAt s.inLen.toNat 0 = .ok l)
    (hloop : encodeLoop s.codes s.params.bitCap l 0 [] = (out, r)) :
    execEncode s = .next (complete r (storeStream out s)) := by
  rw [execEncode, if_neg (by simp [hv]), if_neg (by omega), hread]
  dsimp only
  rw [hloop]

theorem execEncode_of_codesValid_eq_false (hv : s.codesValid = false) :
    execEncode s = .next (complete (some { kind := .noCodes, info := 0 }) s) := if_pos hv

theorem execEncode_of_symCap_lt (hv : s.codesValid = true) (hlen : s.params.symCap < s.inLen.toNat) :
    execEncode s = .next (complete (some { kind := .badLength, info := s.inLen }) s) := by
  rw [execEncode, if_neg (by simp [hv]), if_pos hlen, raise]

theorem execDecode_of_treeValid_eq_false (hv : s.treeValid = false) :
    execDecode s = .next (complete (some { kind := .noTree, info := 0 }) s) := if_pos hv

theorem execDecode_of_bitCap_lt (hv : s.treeValid = true) (hlen : s.params.bitCap < s.bitLen.toNat) :
    execDecode s = .next (complete (some { kind := .badLength, info := s.bitLen }) s) := by
  rw [execDecode, if_neg (by simp [hv]), if_pos hlen, raise]

/-! The length of the stream (43_encoder.md R185). -/

/-- A stream is as long as the codes of its symbols together. -/
theorem length_flatMap_code (codes : Vector CodeEntry 256) (l : List Byte) :
    (l.flatMap fun b => (codeAt codes b).code).length = (l.map fun b => (codeAt codes b).len.toNat).sum := by
  simp only [List.length_flatMap, codeEntry_code_length]

/-- A sum over the elements of a list is the sum over all byte values of how often each occurs. -/
theorem sum_map_eq_sum_count_mul (l : List Byte) (f : Byte → Nat) :
    (l.map f).sum = (((List.range 256).map (BitVec.ofNat 8)).map fun b => l.count b * f b).sum := by
  have hsub : l.toFinset ⊆ ((List.range 256).map (BitVec.ofNat 8)).toFinset := fun b _ => List.mem_toFinset.2 (mem_allBytes b)
  rw [Finset.sum_list_map_count, ← List.sum_toFinset _ allBytes_nodup]
  refine Finset.sum_subset hsub fun b _ hb => ?_
  rw [List.count_eq_zero.2 (mt List.mem_toFinset.2 hb), zero_smul]

/-! ENCODE run again (43_encoder.md R186). -/

/-- Bytes that are stored already are stored again with no effect. -/
theorem memWrite_memWrite (m : Memory) (base : Nat) (bs : List Byte) :
    memWrite (memWrite m base bs) base bs = memWrite m base bs := by
  by_cases hb : bs = []
  · simp [memWrite, hb]
  · have hbelow : (cellsFrom base bs).filter (fun c => c.1 < base) = [] :=
      List.filter_eq_nil_iff.2 fun c hc => by simpa using (mem_cellsFrom hc).1
    have habove : (cellsFrom base bs).filter (fun c => base + bs.length ≤ c.1) = [] :=
      List.filter_eq_nil_iff.2 fun c hc => by simpa using (mem_cellsFrom hc).2
    have hapart (a : Nat) : (decide (a < base) && decide (base + bs.length ≤ a)) = false := by simp; omega
    simp [memWrite, hb, hbelow, habove, hapart, Bool.and_comm (decide (base + bs.length ≤ _))]

/-- What ENCODE stores in BIT_BUF leaves SYM_BUF alone. -/
theorem symAt_complete_storeStream (r : Option Raise) (out : List Bool) (hlegal : s.params.legal) {i : Nat}
    (hi : i < s.params.symCap) : (complete r (storeStream out s)).symAt i = s.symAt i := by
  obtain ⟨⟨-, -, hcap⟩, -, -⟩ := hlegal
  have hmem : memRead (memWrite s.mem bitBase (streamBytes out)) (symAddr i) = memRead s.mem (symAddr i) :=
    memRead_memWrite_outside _ _ _ _ (.inl (by unfold symAddr symBase bitBase; omega))
  simp [State.symAt, cmdByte, hmem]

/-- A stream stored and reported again, over itself. -/
theorem complete_storeStream_twice (r : Option Raise) (out : List Bool) (s : State) :
    complete r (storeStream out (complete r (storeStream out s))) = complete r (storeStream out s) :=
  congrArg (fun m => complete r { storeStream out s with mem := m }) (memWrite_memWrite s.mem bitBase (streamBytes out))

end Sys2Proof.Machine
end

section
/-! SUPPORT. The statements of 43_encoder.md, and the order of the checks of ENCODE and DECODE (60_exceptions.md R235). -/

namespace Sys2Proof.Machine

/-- Settles O27: each check decides the outcome, and the checks before it have passed. -/
theorem flagsAreCheckedBeforeLengths : Obligations.FlagsAreCheckedBeforeLengths := fun _ =>
  ⟨execEncode_of_codesValid_eq_false, execEncode_of_symCap_lt, execDecode_of_treeValid_eq_false, execDecode_of_bitCap_lt⟩

/-- Settles O25: the loop encodes all symbols. -/
theorem encodeWritesTheCodes : Obligations.EncodeWritesTheCodes := by
  intro s syms hv hlen hsyms hfit
  have hread := readAll_range fun i hi => (hsyms i hi).1
  have hpresent : ∀ b ∈ (List.range s.inLen.toNat).map syms, (codeAt s.codes b).present = true :=
    List.forall_mem_map.2 fun i hi => (hsyms i (List.mem_range.1 hi)).2
  have hloop := encodeLoop_codes hpresent [] 0 [] hfit
  rw [List.append_nil] at hloop
  exact ⟨_, wroteStream_memWrite s.mem _, execEncode_of_encodeLoop hv hlen hread hloop⟩

/-- Settles O26: the loop encodes the symbols before `k`, and stops at `k`. -/
theorem encodeStopsAtTheFirstBadSymbol : Obligations.EncodeStopsAtTheFirstBadSymbol := by
  intro s syms k kind hv hlen hk hsyms hpresent hfit hbad
  have hread := readAll_range hsyms
  have hbefore : ∀ b ∈ (List.range k).map syms, (codeAt s.codes b).present = true :=
    List.forall_mem_map.2 fun i hi => hpresent i (List.mem_range.1 hi)
  obtain ⟨rest, hinput⟩ := exists_map_range_eq_append hk syms
  have hloop := encodeLoop_codes hbefore (syms k :: rest) 0 [] hfit
  rw [← hinput, List.length_map, List.length_range, Nat.zero_add] at hloop
  refine ⟨_, wroteStream_memWrite s.mem _, ?_⟩
  obtain ⟨hb, rfl⟩ | ⟨hb, rfl, hfull⟩ := hbad
  · exact execEncode_of_encodeLoop hv hlen hread (hloop.trans (encodeLoop_of_no_code hb _ rest k _))
  · exact execEncode_of_encodeLoop hv hlen hread (hloop.trans (encodeLoop_of_overflow hb hfull rest k))

/-- Settles O28: the stream is as long as the codes of the input together, summed symbol by symbol. -/
theorem encodedLengthIsTheWeightedSum : Obligations.EncodedLengthIsTheWeightedSum := by
  intro s t syms hlegal hsyms hfreq h herr
  obtain ⟨l, hread, -, -, hbits, -⟩ := execEncode_of_err_none hlegal h herr
  obtain rfl := Except.ok.inj (hread.symm.trans (readAll_range hsyms))
  rw [hbits, length_flatMap_code, sum_map_eq_sum_count_mul]
  simp only [hfreq]

/-- Settles O29: a failed check fails again; past the checks the input is as it was, and its stream is stored over itself. -/
theorem encodeTwiceIsTheSame : Obligations.EncodeTwiceIsTheSame := by
  intro s t hlegal h
  obtain ⟨hv, rfl⟩ | ⟨hv, hlen, rfl⟩ | ⟨hv, hlen, l, out, r, hread, hloop, rfl⟩ := execEncode_cases h
  · exact execEncode_of_codesValid_eq_false hv
  · exact execEncode_of_symCap_lt hv hlen
  · have hagain : readAll (complete r (storeStream out s)).symAt s.inLen.toNat 0 = .ok l :=
      (readAll_congr fun i _ hi => symAt_complete_storeStream r out hlegal (by omega)).trans hread
    exact (execEncode_of_encodeLoop (s := complete r (storeStream out s)) hv hlen hagain hloop).trans
      (congrArg _ (complete_storeStream_twice r out s))

end Sys2Proof.Machine
end

section
/-! SUPPORT. DECODE (44_decoder.md): how the decoding loop ends inside a code, at a bit with no meaning and at a full OUT_BUF, and
what the command makes of that. -/

namespace Sys2Proof.Machine

variable {s t : State}

/-! Reading the stream. -/

/-- A readable stream that begins with the bits `pre` is read as them and what follows them. -/
theorem readAll_eq_ok_append {f : Nat → Option Bool} {n : Nat} {pre : List Bool} (hle : pre.length ≤ n)
    (hpre : ∀ i, i < pre.length → f i = some (pre.getD i false)) (hread : ∀ i, i < n → f i ≠ none) :
    ∃ rest, readAll f n 0 = .ok (pre ++ rest) := by
  have hsome (i : Nat) (hi : i < n) : f i = some ((f i).getD false) := by
    obtain ⟨b, hb⟩ := Option.ne_none_iff_exists'.1 (hread i hi)
    rw [hb, Option.getD_some]
  obtain ⟨l, hl⟩ : ∃ l, readAll f n 0 = .ok l := ⟨_, readAll_range hsome⟩
  obtain ⟨hlen, hget⟩ := readAll_ok hl
  have htake : l.take pre.length = pre := List.ext_getElem (by simp; omega) fun i _ hi => by
    have hbit := (hget i (by omega)).symm.trans ((congrArg f (Nat.zero_add i)).trans (hpre i hi))
    simpa [hi] using hbit
  obtain ⟨rest, rfl⟩ := List.prefix_iff_eq_take.2 htake.symm
  exact ⟨rest, hl⟩

/-! Walks that end inside the tree. -/

theorem walk_cons_eq_some {arena : Vector Node 511} {n m : NodeIdx} {b : Bool} {p : List Bool}
    (h : walk arena n (b :: p) = some m) :
    ∃ l r w, nodeAt arena n = .internal l r w ∧ walk arena (if b then r else l) p = some m := by
  rw [walk] at h
  cases hnode : nodeAt arena n with
  | empty | leaf => simp [hnode] at h
  | internal l r w => exact ⟨l, r, w, rfl, by simpa [hnode] using h⟩

/-- An internal node is a node inside the tree: neither a leaf nor NIL. -/
theorem inner_of_internal {arena : Vector Node 511} {n l r : NodeIdx} {w : Weight} (h : nodeAt arena n = .internal l r w) :
    (nodeAt arena n).isLeaf = false ∧ n ≠ nilIdx := by
  refine ⟨by rw [h, Node.isLeaf], ?_⟩
  rintro rfl
  simp at h

/-- A walk to a node inside the tree starts at one. -/
theorem inner_of_walk {arena : Vector Node 511} {n m : NodeIdx} {p : List Bool} (h : walk arena n p = some m)
    (hm : (nodeAt arena m).isLeaf = false) (hnil : m ≠ nilIdx) : (nodeAt arena n).isLeaf = false ∧ n ≠ nilIdx := by
  cases p with
  | nil =>
    cases h
    exact ⟨hm, hnil⟩
  | cons b p =>
    obtain ⟨l, r, w, hnode, -⟩ := walk_cons_eq_some h
    exact inner_of_internal hnode

/-! The cursor (44_decoder.md R191 to R193). -/

theorem cursorStep_of_internal {arena : Vector Node 511} {n l r : NodeIdx} {w : Weight} (h : nodeAt arena n = .internal l r w)
    (b : Bool) :
    cursorStep arena n b = if (if b then r else l) = nilIdx then none else some (if b then r else l) := by
  simp [cursorStep, h, Node.isLeaf, Node.leftChild, Node.rightChild]

/-- At a leaf root a bit 1 has no meaning, and a bit 0 stays (44_decoder.md R192, R193). -/
theorem cursorStep_of_isLeaf {arena : Vector Node 511} {n : NodeIdx} (h : (nodeAt arena n).isLeaf = true) (b : Bool) :
    cursorStep arena n b = if b then none else some n := if_pos h

/-! The loop. -/

section

variable {arena : Vector Node 511} {root cur : NodeIdx} {outCap : Nat} {out : List Byte}

/-- A path to a node inside the tree emits nothing. -/
theorem decodeLoop_walk_to_inner {p : List Bool} {m : NodeIdx} (hw : walk arena cur p = some m)
    (hm : (nodeAt arena m).isLeaf = false) (hnil : m ≠ nilIdx) (rest : List Bool) (i start : Nat) :
    decodeLoop arena root outCap (p ++ rest) i cur out start =
      decodeLoop arena root outCap rest (i + p.length) m out start := by
  induction p generalizing cur i with
  | nil =>
    cases hw
    rfl
  | cons b p ih =>
    obtain ⟨l, r, w, hnode, hw⟩ := walk_cons_eq_some hw
    obtain ⟨hchild, hne⟩ := inner_of_walk hw hm hnil
    rw [List.cons_append, decodeLoop, cursorStep_of_internal hnode, if_neg hne]
    dsimp only
    rw [if_pos hchild, ih hw, List.length_cons, Nat.add_assoc, Nat.add_comm 1]

/-- The stream ends inside a code (44_decoder.md R194). -/
theorem decodeLoop_nil_of_lt {i start : Nat} (h : start < i) :
    decodeLoop arena root outCap [] i cur out start =
      (out, some { kind := .truncatedStream, info := BitVec.ofNat 32 start }) := by
  rw [decodeLoop, if_neg h.ne]

/-- A bit with no meaning ends the loop (44_decoder.md R193). -/
theorem decodeLoop_of_malformed {b : Bool} (h : cursorStep arena cur b = none) (rest : List Bool) (i start : Nat) :
    decodeLoop arena root outCap (b :: rest) i cur out start =
      (out, some { kind := .malformedStream, info := BitVec.ofNat 32 i }) := by
  rw [decodeLoop, h]

/-- A bit that completes a code ends the loop when OUT_BUF is full (44_decoder.md R195). -/
theorem decodeLoop_of_overflow {b : Bool} {m : NodeIdx} (h : cursorStep arena cur b = some m)
    (hm : (nodeAt arena m).isLeaf = true) (hfull : out.length = outCap) (rest : List Bool) (i start : Nat) :
    decodeLoop arena root outCap (b :: rest) i cur out start =
      (out, some { kind := .outputOverflow, info := BitVec.ofNat 32 i }) := by
  rw [decodeLoop, h]
  dsimp only
  rw [if_neg (by simp [hm]), if_pos hfull]

/-- A code that completes when OUT_BUF is full ends the loop at its last bit (44_decoder.md R195). -/
theorem decodeLoop_code_of_full {p : List Bool} {b : Byte} (h : CodeOf arena root p b) (hfull : out.length = outCap)
    (rest : List Bool) (i start : Nat) :
    decodeLoop arena root outCap (p ++ rest) i root out start =
      (out, some { kind := .outputOverflow, info := BitVec.ofNat 32 (i + p.length - 1) }) := by
  rw [CodeOf] at h
  split at h
  · next hroot =>
    obtain ⟨rfl, -⟩ := h
    exact decodeLoop_of_overflow (cursorStep_of_isLeaf hroot false) hroot hfull rest i start
  · next hroot =>
    obtain ⟨m, hw, hm, -⟩ := h
    obtain rfl | ⟨q, c, rfl⟩ := List.eq_nil_or_concat' p
    · cases hw
      exact absurd hm hroot
    · rw [walk_append] at hw
      obtain ⟨n, hq, hc⟩ := Option.bind_eq_some_iff.1 hw
      obtain ⟨l, r, w, hnode, hchild⟩ := walk_cons_eq_some hc
      obtain ⟨hinner, hne⟩ := inner_of_internal hnode
      have hstep : cursorStep arena n c = some m := by
        rw [cursorStep_of_internal hnode, if_neg (ne_nilIdx_of_walk hchild hm)]
        exact hchild
      rw [List.append_assoc, decodeLoop_walk_to_inner hq hinner hne]
      simpa [← Nat.add_assoc] using decodeLoop_of_overflow hstep hm hfull rest (i + q.length) start

end

/-! The command. -/

/-- DECODE past its checks stores what the loop emits and reports how it ended (44_decoder.md R190). -/
theorem execDecode_of_decodeLoop {bits : List Bool} {out : List Byte} {r : Option Raise} (hv : s.treeValid = true)
    (hlen : s.bitLen.toNat ≤ s.params.bitCap) (hread : readAll s.bitAt s.bitLen.toNat 0 = .ok bits)
    (hloop : decodeLoop s.arena s.root s.params.outCap bits 0 s.root [] 0 = (out, r)) :
    execDecode s = .next (complete r (storeSymbols out s)) := by
  rw [execDecode, if_neg (by simp [hv]), if_neg (by omega), hread]
  dsimp only
  rw [hloop]

/-- DECODE of a stream that begins with complete codes: what the loop makes of the bits after them decides. -/
theorem execDecode_of_codes_append {xs : List (List Bool × Byte)} {rest : List Bool} {r : Option Raise} (hv : s.treeValid = true)
    (hlen : s.bitLen.toNat ≤ s.params.bitCap) (hxs : ∀ x ∈ xs, CodeOf s.arena s.root x.1 x.2)
    (hcap : xs.length ≤ s.params.outCap)
    (hread : readAll s.bitAt s.bitLen.toNat 0 = .ok (xs.flatMap Prod.fst ++ rest))
    (hrest : decodeLoop s.arena s.root s.params.outCap rest (xs.flatMap Prod.fst).length s.root (xs.map Prod.snd)
      (xs.flatMap Prod.fst).length = (xs.map Prod.snd, r)) :
    execDecode s = .next (complete r (storeSymbols (xs.map Prod.snd) s)) := by
  have hcodes := decodeLoop_codes (outCap := s.params.outCap) (out := []) hxs rest 0 (by simpa using hcap)
  rw [Nat.zero_add, List.nil_append] at hcodes
  exact execDecode_of_decodeLoop hv hlen hread (hcodes.trans hrest)

/-- What is stored and reported when DECODE ends with the symbols of `xs` emitted (44_decoder.md R190). -/
theorem exists_wrote_of_execDecode {xs : List (List Bool × Byte)} {r : Option Raise}
    (h : execDecode s = .next (complete r (storeSymbols (xs.map Prod.snd) s))) :
    ∃ mem, Wrote s.mem mem outBase (xs.map Prod.snd) ∧
      exec .decode s = .next { s with
        outLen := BitVec.ofNat 32 xs.length, mem := mem, engine := .idle, done := true, err := r.map Raise.kind,
        errInfo := (r.map Raise.info).getD 0 } := by
  rw [storeSymbols, List.length_map] at h
  exact ⟨_, wrote_memWrite s.mem outBase _, h⟩

/-- Two states in which DECODE reads the same. -/
structure SameDecoderInput (s t : State) : Prop where
  treeValid : s.treeValid = t.treeValid
  arena : s.arena = t.arena
  root : s.root = t.root
  bitLen : s.bitLen = t.bitLen
  params : s.params = t.params
  bits : ∀ i, i < s.bitLen.toNat → s.bitAt i = t.bitAt i

/-- What DECODE emits and reports is a function of what it reads (44_decoder.md R200). -/
theorem SameDecoderInput.execDecode_eq {bits : List Bool} {out : List Byte} {r : Option Raise} (h : SameDecoderInput s t)
    (hv : s.treeValid = true) (hlen : s.bitLen.toNat ≤ s.params.bitCap)
    (hread : readAll s.bitAt s.bitLen.toNat 0 = .ok bits)
    (hloop : decodeLoop s.arena s.root s.params.outCap bits 0 s.root [] 0 = (out, r)) :
    execDecode t = .next (complete r (storeSymbols out t)) := by
  obtain ⟨hvalid, harena, hroot, hbitLen, hparams, hbits⟩ := h
  have hsame : readAll t.bitAt s.bitLen.toNat 0 = .ok bits :=
    (readAll_congr fun i _ hi => (hbits i (by omega)).symm).trans hread
  rw [hvalid] at hv
  rw [hbitLen] at hsame
  rw [hbitLen, hparams] at hlen
  rw [harena, hroot, hparams] at hloop
  exact execDecode_of_decodeLoop hv hlen hsame hloop

end Sys2Proof.Machine
end

section
/-! SUPPORT. The statements of 44_decoder.md about DECODE alone. -/

namespace Sys2Proof.Machine

/-- Settles O30: the loop emits the symbol of each code, and the stream ends with the last of them. -/
theorem decodeReadsCompleteCodes : Obligations.DecodeReadsCompleteCodes := by
  intro s xs hv hlen hxs hbits hread hcap
  exact exists_wrote_of_execDecode (execDecode_of_codes hv hlen hxs hbits hread hcap)

/-- Settles O31: after the complete codes the path emits nothing, and the stream ends with it. -/
theorem decodeTruncatedStream : Obligations.DecodeTruncatedStream := by
  intro s xs p n hv hlen _ hxs hp hw hnil hinner hbits hread hcap
  have hr : readAll s.bitAt s.bitLen.toNat 0 = .ok (xs.flatMap Prod.fst ++ p) := by
    rw [hbits] at hread ⊢
    exact readAll_eq_ok_of_getD hread
  have hpath := decodeLoop_walk_to_inner (root := s.root) (outCap := s.params.outCap) (out := xs.map Prod.snd) hw hinner hnil []
    (xs.flatMap Prod.fst).length (xs.flatMap Prod.fst).length
  rw [List.append_nil] at hpath
  have hend := hpath.trans (decodeLoop_nil_of_lt (Nat.lt_add_of_pos_right (List.length_pos_iff.2 hp)))
  exact exists_wrote_of_execDecode (execDecode_of_codes_append hv hlen hxs hcap hr hend)

/-- Settles O32: the cursor is at the node that the path leads to, and has no step for the next bit. -/
theorem decodeMalformedStream : Obligations.DecodeMalformedStream := by
  intro s xs p b hv hlen hxs hbad hlt hprefix hread hcap
  obtain ⟨rest, hr⟩ := readAll_eq_ok_append (pre := xs.flatMap Prod.fst ++ p ++ [b])
    (by rw [List.length_append, List.length_singleton]; exact hlt)
    (fun i hi => hprefix i (by rw [List.length_append, List.length_singleton] at hi; omega)) hread
  rw [List.append_assoc, List.append_assoc, List.singleton_append] at hr
  refine exists_wrote_of_execDecode (r := some ⟨_, _⟩) (execDecode_of_codes_append hv hlen hxs hcap hr ?_)
  obtain ⟨hroot, rfl, rfl⟩ | ⟨n, l, r, w, hw, hnode, hchild⟩ := hbad
  · rw [List.append_nil]
    exact decodeLoop_of_malformed (cursorStep_of_isLeaf hroot true) rest _ _
  · obtain ⟨hinner, hne⟩ := inner_of_internal hnode
    rw [decodeLoop_walk_to_inner hw hinner hne, List.length_append]
    exact decodeLoop_of_malformed ((cursorStep_of_internal hnode b).trans (if_pos hchild)) rest _ _

/-- Settles O33: with OUT_BUF full after the codes of `xs`, the next code ends the loop at its last bit. -/
theorem decodeOutputOverflow : Obligations.DecodeOutputOverflow := by
  intro s xs p b hv hlen hxs hcode hle hprefix hread hfull
  obtain ⟨rest, hr⟩ := readAll_eq_ok_append hle hprefix hread
  rw [List.append_assoc] at hr
  rw [← hfull, List.length_append]
  exact exists_wrote_of_execDecode (execDecode_of_codes_append hv hlen hxs hfull.le hr
    (decodeLoop_code_of_full hcode (by rw [List.length_map, hfull]) rest _ _))

/-- Settles O34: both runs fail the same check, or read the same bits and go through the same loop. -/
theorem decodeDependsOnTreeAndStream : Obligations.DecodeDependsOnTreeAndStream := by
  intro s1 s2 t1 t2 hvalid harena hroot hbitLen hparams hbits houtLen h1 h2
  have hsame : SameDecoderInput s1 s2 := ⟨hvalid, harena, hroot, hbitLen, hparams, hbits⟩
  obtain ⟨hv, rfl⟩ | ⟨hv, hlen, rfl⟩ | ⟨hv, hlen, bits, out, r, hread, hloop, rfl⟩ := execDecode_cases h1
  · cases h2.symm.trans (execDecode_of_treeValid_eq_false (hvalid ▸ hv))
    exact ⟨rfl, rfl, houtLen, fun hv' => absurd (hv.symm.trans hv') (by decide)⟩
  · cases h2.symm.trans (execDecode_of_bitCap_lt (hvalid ▸ hv) (hparams ▸ hbitLen ▸ hlen))
    exact ⟨rfl, hbitLen, houtLen, fun _ hle => absurd hle hlen.not_ge⟩
  · cases h2.symm.trans (hsame.execDecode_eq hv hlen hread hloop)
    refine ⟨rfl, rfl, rfl, fun _ _ i hi => ?_⟩
    have hi : i < out.length := hi.trans_le (by simpa using Nat.mod_le _ _)
    rw [outAt_storeSymbols r out s1 hi, outAt_storeSymbols r out s2 hi]

end Sys2Proof.Machine
end

section
/-! SUPPORT. The host's accesses register by register (45_host_interface.md R212 to R215), the interrupt output (R222), what a soft reset
leaves (70_reset_and_hazards.md R262, R263), and which step completes a command. -/

namespace Sys2Proof.Machine

variable {s : State} {a : Word}

/-! Host accesses. -/

theorem hostWrite_reg_of_idle (hi : s.engine = .idle) {r : Reg} (ha : wordOffset a = r.offset.toNat) (v : Word) :
    hostWrite a v s = writeReg v s r :=
  hostWrite_of_target hi (targetOf_eq_reg_iff.2 ha) v

/-- A register that a write acts on while busy as while idle takes the write in every state. -/
theorem hostWrite_reg_of_writeBusy_eq {r : Reg} {v : Word} (ha : wordOffset a = r.offset.toNat)
    (hr : writeBusy v s (.reg r) = writeReg v s r) : hostWrite a v s = writeReg v s r := by
  rw [hostWrite, targetOf_eq_reg_iff.2 ha, hr, writeIdle, ite_self]

theorem hostWrite_ctrl (ha : wordOffset a = 0x004) (v : Word) (s : State) : hostWrite a v s = writeCtrl v s :=
  hostWrite_reg_of_writeBusy_eq (r := .ctrl) ha rfl

theorem hostWrite_status (ha : wordOffset a = 0x008) (v : Word) (s : State) : hostWrite a v s = writeStatus v s :=
  hostWrite_reg_of_writeBusy_eq (r := .status) ha rfl

/-- While busy a register of 45_host_interface.md R215 reads as while idle. -/
theorem hostRead_reg_of_busy {c : Word} (hb : s.engine = .busy c) {r : Reg} (hr : readableWhileBusy (.reg r) = true)
    (ha : wordOffset a = r.offset.toNat) : hostRead a s = { s with rdata := some (readReg s r) } := by
  simp only [hostRead, targetOf_eq_reg_iff.2 ha, hr, busy_eq_true_of_busy hb]
  rfl

theorem hostRead_of_busy_of_not_readable {c : Word} (hb : s.engine = .busy c) (ht : readableWhileBusy (targetOf a) = false) :
    hostRead a s = answerDraw s := by
  simp [hostRead, ht, busy_eq_true_of_busy hb]

/-- The offsets of the registers that can be read while busy (45_host_interface.md R215). -/
theorem wordOffset_mem_of_readableWhileBusy (h : readableWhileBusy (targetOf a) = true) :
    wordOffset a ∈ [0x000, 0x004, 0x008, 0x00C, 0x030, 0x034, 0x038] := by
  cases ht : targetOf a with
  | reg r =>
    rw [targetOf_eq_reg_iff.1 ht]
    rw [ht] at h
    revert h
    cases r <;> decide
  | freq | node | code | sym | bit | out | reserved => rw [ht] at h; cases h

/-! The interrupt output. -/

theorem irq_eq_true_iff (s : State) : s.irq = true ↔ s.ie = true ∧ s.done = true := by rw [State.irq, Bool.and_eq_true]

@[simp] theorem issue_irq (c : Word) (s : State) : (issue c s).irq = false := Bool.and_false _

@[simp] theorem writeStatus_irq (v : Word) (s : State) : (writeStatus v s).irq = (s.irq && !v.getLsbD 1) :=
  (Bool.and_assoc ..).symm

@[simp] theorem resetRegisters_irq (s : State) : (resetRegisters s).irq = false := rfl

@[simp] theorem hardReset_irq (s : State) : (hardReset s).irq = false := rfl

@[simp] theorem complete_irq (r : Option Raise) (s : State) : (complete r s).irq = s.ie := Bool.and_true _

/-- A soft reset clears IE and DONE; without one the write sets IE. -/
theorem writeCtrl_irq (v : Word) (s : State) : (writeCtrl v s).irq = (s.done && v.getLsbD 0 && !v.getLsbD 1) := by
  unfold writeCtrl
  split
  · next hv => rw [softReset, resetRegisters_irq, hv, Bool.not_true, Bool.and_false]
  · next hv => rw [State.irq, setIe_ie, setIe_done, Bool.eq_false_of_not_eq_true hv, Bool.not_false, Bool.and_true, Bool.and_comm]

/-! Soft reset. -/

theorem writeCtrl_of_reset {v : Word} (hv : v.getLsbD 1 = true) (s : State) : writeCtrl v s = softReset s := if_pos hv

theorem softReset_of_idle (hi : s.engine = .idle) : softReset s = resetRegisters s := by rw [softReset, abandonCommand, hi]

/-- Only ENCODE and DECODE could write a buffer. -/
theorem softReset_of_busy {c : Word} (hb : s.engine = .busy c) (he : decode c ≠ .encode) (hd : decode c ≠ .decode) :
    softReset s = resetRegisters s := by
  simp only [softReset, abandonCommand, hb]
  cases hc : decode c with
  | encode => exact absurd hc he
  | decode => exact absurd hc hd
  | count | build | assign | illegal => rfl

theorem softReset_of_encode {c : Word} (hb : s.engine = .busy c) (hc : decode c = .encode) :
    softReset s = resetRegisters (abandonBits s) := by
  simp only [softReset, abandonCommand, hb, hc]

theorem softReset_of_decode {c : Word} (hb : s.engine = .busy c) (hc : decode c = .decode) :
    softReset s = resetRegisters (abandonOut s) := by
  simp only [softReset, abandonCommand, hb, hc]

/-! Steps. -/

theorem completeStep_of_busy {c : Word} (hb : s.engine = .busy c) : completeStep s = exec (decode c) s := by
  rw [completeStep, hb]

theorem step_of_nil (hq : s.inputs = []) : step s = completeStep s := by rw [step, runNext, hq]

theorem step_of_complete {q : List Event} (hq : s.inputs = .complete :: q) : step s = completeStep (setInputs q s) := by
  rw [step, runNext, hq]
  rfl

/-- While busy the WAIT stays the next event, so its step is a completion in the same state. -/
theorem step_of_wait_of_busy {c : Word} {q : List Event} (hb : s.engine = .busy c) (hq : s.inputs = .wait :: q) :
    step s = completeStep s := by
  have hbusy : (setInputs q s).busy = true := busy_eq_true_of_busy hb
  have hsame : setInputs (.wait :: q) (setInputs q s) = s := by
    rw [← hq]
    rfl
  rw [step, runNext, hq]
  simp only [runEvent, hbusy, if_true, setInputs_inputs, hsame]

theorem step_fetchCommand (c : Word) (s : State) : step (fetchCommand c s) = exec (decode c) (issue c s) :=
  (step_of_complete (fetchCommand_inputs s c)).trans (completeStep_of_busy (issue_engine s c))

end Sys2Proof.Machine
end

section
/-! SUPPORT. The statements of 45_host_interface.md: issue and completion, register writes, host accesses while busy, soft reset, and the
interrupt output. -/

namespace Sys2Proof.Machine

/-- Settles O6: the outcome is reported by `complete`, and WDROP, IE and LAST_CMD are no command's operands. -/
theorem completionReportsTheOutcome : Obligations.CompletionReportsTheOutcome := by
  intro i s t h
  obtain ⟨r, u, hu, rfl⟩ := exec_effect h
  obtain ⟨-, -, hie, hwdrop, hlastCmd, -⟩ := hu.keeps_nonoperands
  refine ⟨rfl, rfl, fun herr => ?_, hwdrop, hie, hlastCmd⟩
  obtain rfl := Option.map_eq_none_iff.1 herr
  rfl

/-- Settles O51: by what a completion, a write and a reset do to IE and DONE. -/
theorem interruptFollowsCompletion : Obligations.InterruptFollowsCompletion := by
  refine ⟨irq_eq_true_iff, fun i s t h => ?_, fun s a v => ⟨fun hi ha => ?_, fun ha => ?_, fun ha => ?_⟩, hardReset_irq⟩
  · obtain ⟨r, u, hu, rfl⟩ := exec_effect h
    obtain ⟨-, -, hie, -⟩ := hu.keeps_nonoperands
    rw [complete_irq, hie]
  · rw [hostWrite_reg_of_idle (r := .cmd) hi ha, writeReg, issue_irq]
  · rw [hostWrite_status ha, writeStatus_irq]
  · rw [hostWrite_ctrl ha, writeCtrl_irq]

/-- Settles O54: what the running command abandons is reset with the rest, and an abandoned buffer reads as no stored byte. -/
theorem softResetKeepsTheBuffers : Obligations.SoftResetKeepsTheBuffers := by
  intro s a v ha hv
  rw [hostWrite_ctrl ha, writeCtrl_of_reset hv]
  refine ⟨fun hkeeps => ?_, fun c hb hc => ?_, fun c hb hc => ?_⟩
  · obtain hi | ⟨c, hb, hne, hnd⟩ := hkeeps
    · exact softReset_of_idle hi
    · exact softReset_of_busy hb hne hnd
  · exact ⟨_, softReset_of_encode hb hc, memRead_memErase _ _ _⟩
  · exact ⟨_, softReset_of_decode hb hc, memRead_memErase _ _ _⟩

/-- Settles O4: each of these steps is a completion, and a completion runs the decoded word. -/
theorem stepRunsTheDecodedCommand : Obligations.StepRunsTheDecodedCommand := by
  refine ⟨fun s c hb => ⟨fun hq => ?_, fun q hq => ?_, fun q hq => ?_⟩, fun s n w _ => step_fetchCommand _ s⟩
  · rw [step_of_nil hq, completeStep_of_busy hb]
  · exact (step_of_complete hq).trans (completeStep_of_busy hb)
  · rw [step_of_wait_of_busy hb hq, completeStep_of_busy hb]

/-- Settles O5: CMD is the register at 0x00C. -/
theorem commandIssue : Obligations.CommandIssue := fun _ _ v hi ha => hostWrite_reg_of_idle (r := .cmd) hi ha v

/-- Settles O8: the command is one `raise`. -/
theorem illegalCommandCompletes : Obligations.IllegalCommandCompletes := fun _ _ => rfl

/-- Settles O40: the offset selects the register; 0x02C is reserved. -/
theorem registerWrites : Obligations.RegisterWrites := by
  intro s a v hi
  have hwrite (r : Reg) (ha : wordOffset a = r.offset.toNat) : hostWrite a v s = writeReg v s r := hostWrite_reg_of_idle hi ha v
  refine ⟨hwrite .inLen, hwrite .bitLen, hwrite .status, fun ha hv => ?_, fun ha => ?_⟩
  · rw [hostWrite_ctrl ha, writeCtrl, hv]
    rfl
  · simp only [List.mem_cons, List.not_mem_nil, or_false] at ha
    obtain ha | ha | ha | ha | ha | ha | ha | ha | ha | ha := ha
    · exact hwrite .id ha
    · exact hwrite .errInfo ha
    · exact hwrite .outLen ha
    · exact hwrite .nleaf ha
    · exact hwrite .nnode ha
    · exact hwrite .root ha
    · rw [hostWrite_of_target hi (targetOf_reservedReg (.inl ha)), writeIdle]
    · exact hwrite .capSym ha
    · exact hwrite .capBit ha
    · exact hwrite .capOut ha

/-- Settles O49: CTRL and STATUS act while busy as while idle, and a write to any other target is dropped. -/
theorem writesWhileBusy : Obligations.WritesWhileBusy := by
  intro s c a v hb
  refine ⟨fun hctrl hstatus => ?_, fun ha => hostWrite_status ha v s, fun ha => hostWrite_ctrl ha v s⟩
  rw [hostWrite_of_busy hb, writeBusy_of_ne (fun ht => hctrl (targetOf_eq_reg_iff.1 ht))
    (fun ht => hstatus (targetOf_eq_reg_iff.1 ht))]
  rfl

/-- Settles O50: the invariant says that issue cleared DONE and ERR_CODE and set LAST_CMD. -/
theorem readsWhileBusy : Obligations.ReadsWhileBusy := by
  intro s c a hinv hb
  obtain ⟨hdone, herr, hlastCmd⟩ := hinv.busyFresh c hb
  obtain ⟨hbusyBit, hdoneBit, -, -, -, -, -, -, herrCode⟩ := statusFields s
  have hread (r : Reg) (hr : readableWhileBusy (.reg r) = true) (ha : wordOffset a = r.offset.toNat) :=
    hostRead_reg_of_busy hb hr ha
  refine ⟨hread .id rfl, ?_, fun ha => ⟨hread .status rfl ha, hbusyBit.2 ⟨c, hb⟩, hdoneBit.trans hdone, ?_⟩, ?_,
    hread .capSym rfl, hread .capBit rfl, hread .capOut rfl, fun ha => ?_⟩
  · rw [← ctrlWord_eq]
    exact hread .ctrl rfl
  · rw [herr] at herrCode
    exact BitVec.eq_of_toNat_eq herrCode
  · rw [← hlastCmd]
    exact hread .cmd rfl
  · exact hostRead_of_busy_of_not_readable hb (Bool.eq_false_of_not_eq_true fun ht => ha (wordOffset_mem_of_readableWhileBusy ht))

end Sys2Proof.Machine
end

section
/-! SUPPORT. Reset and restart (70_reset_and_hazards.md): the step of a hard reset, what a BUILD from a saved FREQ table leaves, and the
statements about both. -/

namespace Sys2Proof.Machine

variable {s t : State}

/-! Hard reset (70_reset_and_hazards.md R260, R261). -/

theorem step_of_hardReset {q : List Event} (hq : s.inputs = .hardReset :: q) : step s = .next (hardReset (setInputs q s)) := by
  rw [step, runNext, hq]
  rfl

/-! A saved FREQ table (70_reset_and_hazards.md R267). -/

/-- Under SEQ a valid tree is what every BUILD from its FREQ table computes, whichever choices the invariant names
(41_tree_builder.md R159). -/
theorem Inv.buildTree_seq (hi : Inv s) (hv : s.treeValid = true) (htie : s.params.tie = .seq) (picks : Nat → Nat) :
    buildTree .seq picks s.freq = some { arena := s.arena, nleaf := s.nleaf, nnode := s.nnode, root := s.root } := by
  obtain ⟨picks', hb⟩ := hi.treeBuilt hv
  rw [htie] at hb
  rw [buildTree_seq_picks picks picks', hb]

/-- Under SEQ a BUILD from the FREQ table of a valid tree ends without error, with that tree, and keeps the stream and BIT_LEN. -/
theorem Inv.sameDecoderInput_of_execBuild {u : State} (hi : Inv s) (hv : s.treeValid = true) (htie : s.params.tie = .seq)
    (hparams : s.params = t.params) (hfreq : s.freq = t.freq) (hbitLen : s.bitLen = t.bitLen)
    (hbits : ∀ i, i < s.bitLen.toNat → s.bitAt i = t.bitAt i) (h : execBuild t = .next u) :
    u.err = none ∧ SameDecoderInput s u := by
  have htree := hi.buildTree_seq hv htie (Config.freePick t.draws)
  rw [← htie, hparams, hfreq] at htree
  obtain ⟨hnone, -⟩ | ⟨T, hT, rfl⟩ := execBuild_cases h
  · cases htree.symm.trans hnone
  · cases htree.symm.trans hT
    exact ⟨rfl, { treeValid := hv, arena := rfl, root := rfl, bitLen := hbitLen, params := hparams, bits := hbits }⟩

/-- Two DECODEs that read the same valid tree and the same stream end alike, whatever else the two states hold (44_decoder.md R200). -/
theorem SameDecoderInput.execDecode_agree {s' t' : State} (h : SameDecoderInput s t) (hv : s.treeValid = true)
    (hlen : s.bitLen.toNat ≤ s.params.bitCap) (hs : execDecode s = .next s') (ht : execDecode t = .next t') :
    t'.err = s'.err ∧ t'.errInfo = s'.errInfo ∧ t'.outLen = s'.outLen ∧
      ∀ i, i < s'.outLen.toNat → t'.outAt i = s'.outAt i := by
  obtain ⟨hinvalid, -⟩ | ⟨-, hlong, -⟩ | ⟨-, -, bits, out, r, hread, hloop, rfl⟩ := execDecode_cases hs
  · cases hinvalid.symm.trans hv
  · exact absurd hlen hlong.not_ge
  · cases ht.symm.trans (h.execDecode_eq hv hlen hread hloop)
    refine ⟨rfl, rfl, rfl, fun i hi => ?_⟩
    have hout : i < out.length := hi.trans_le (by simpa using Nat.mod_le _ _)
    rw [outAt_storeSymbols r out t hout, outAt_storeSymbols r out s hout]

/-! The statements. -/

/-- Settles O53: the event runs `hardReset`, which does not look at the engine state. -/
theorem hardResetSetsEverything : Obligations.HardResetSetsEverything := fun _ _ hq => step_of_hardReset hq

/-- Settles O36: after its BUILD the second block has the first one's tree and stream, so the two DECODEs read the same. -/
theorem savedFreqRebuildsTheDecoder : Obligations.SavedFreqRebuildsTheDecoder := by
  intro s1 s2 b2 t1 t2 hi1 _ hparams htie hfreq hbitLen hbits hv hlen hdecode1 hbuild hdecode2
  obtain ⟨herr, hsame⟩ := hi1.sameDecoderInput_of_execBuild hv htie hparams hfreq hbitLen hbits hbuild
  exact ⟨herr, hsame.execDecode_agree hv hlen hdecode1 hdecode2⟩

end Sys2Proof.Machine
end
